-- ==== Sys2Proof/Word.lean ====
section
/-! DEFINITION. The word types of the block (00_scope.md R9): a byte, and a 16-bit field. -/

namespace Sys2Proof

/-- A byte: 8 bits, 0..255, bit 7 the most significant (R9). -/
abbrev Byte := BitVec 8

/-- A 16-bit unsigned field of a frame (R72, R140). -/
abbrev Half := BitVec 16

end Sys2Proof
end

