-- ==== Sys2Proof/Config.lean ====
section
/-! DEFINITION. The configuration constants of the block (00_scope.md R7, 10_state.md R25): "fixed, not
runtime-configurable in the core". The one open parameter, CRC_TABLE (R8), is the field `rom` of State, with the
default of Machine/Rom.lean. -/

namespace Sys2Proof.Config

/-- `MARKER`: the value byte 0 of every frame must have. -/
abbrev marker : Byte := 0x54#8

/-- `VERLEN`: the value byte 1 of every frame must have. -/
abbrev verlen : Byte := 0x2C#8

/-- `FRAME_LEN`: bytes in a Raw Frame. -/
abbrev frameLen : Nat := 47

/-- `NPTS`: point records in a frame. -/
abbrev npts : Nat := 12

/-- `NSTEP`: divisor of the angular span, points per frame minus one. -/
abbrev nstep : Nat := 11

/-- `CONF_MIN`: confidence threshold, compared with strict greater-than. -/
abbrev confMin : Byte := 100#8

/-- `ANG_MOD`: hundredths of a degree in a full turn. -/
abbrev angMod : Nat := 36000

/-- `CRC_LEN`: bytes covered by the checksum, offsets 0 to 45. -/
abbrev crcLen : Nat := 46

/-- `CRC_INIT`: start value of the checksum accumulator. -/
abbrev crcInit : Byte := 0#8

/-- A full turn as an angle numerator: `NSTEP * ANG_MOD` = 396000 (43_angle.md R150). -/
abbrev fullTurn : Nat := nstep * angMod

end Sys2Proof.Config
end

