-- ==== Sys2Proof/Machine/Flags.lean ====
section
/-! DEFINITION. The block has no flag register (10_state.md R23, R25): its conditions are comparisons whose results are
used at once. They are all here. -/

namespace Sys2Proof

/-- The marker test, applied in Idle only (30_encoding.md R63, R75). -/
def isMarker (b : Byte) : Bool := b == Config.marker

/-- The length-sentinel test, applied at `cnt = 1` only (30_encoding.md R64, R75). -/
def isVerlen (b : Byte) : Bool := b == Config.verlen

/-- The checksum compare: equality of two 8-bit values (41_crc.md R123). -/
def crcMatches (computed received : Byte) : Bool := computed == received

/-- The straddle test of `ANG.DIFF`, unsigned 16-bit `ea >= sa` (43_angle.md R151). -/
def endNotBeforeStart (sa ea : Half) : Bool := sa.toNat ≤ ea.toNat

/-- The wrap test of `ANG.NORM`: `Nraw >= 396000` (43_angle.md R154). -/
def reachesFullTurn (nraw : Int) : Bool := (Config.fullTurn : Int) ≤ nraw

/-- The point filter, both comparisons strict and unsigned (44_decode_emit.md R170). -/
def keepPoint (dist : Half) (conf : Byte) : Bool := 0 < dist.toNat && Config.confMin.toNat < conf.toNat

end Sys2Proof
end

