-- ==== Sys2Proof/Syntax.lean ====
section
/-! DEFINITION. The operations of the block, one constructor per row of spec/opcode_table.json (30_encoding.md R74),
with the operands their rules list, and the FRAME notation (R82). -/

namespace Sys2Proof

/-- A Raw Frame: 47 bytes, offset 0 the byte received first (`FRAME_LEN`; 00_scope.md R10, 30_encoding.md R61). -/
abbrev Frame := Vector Byte 47

/-- A point record: distance in millimetres and confidence (30_encoding.md R68). -/
structure Point where
  dist : Half
  conf : Byte
deriving DecidableEq, Repr

/-- The `crc=` argument of `FRAME` (30_encoding.md R82). -/
inductive CrcArg where
  /-- the computed checksum -/
  | ok
  /-- the computed checksum XOR 0xFF -/
  | bad
  /-- this byte -/
  | byte (k : Byte)
deriving DecidableEq, Repr

/-- The arguments of `FRAME(sa=, ea=, pts=, spd=, ts=, crc=)` with the defaults of R82, `NPTS` = 12 points. -/
structure FrameArgs where
  sa  : Half
  ea  : Half
  pts : Vector Point 12
  spd : Half := 0#16
  ts  : Half := 0#16
  crc : CrcArg := .ok
deriving DecidableEq, Repr

/-- Which transient an `LD.U8` of the `DECODE` sequence fills (30_encoding.md R76). -/
inductive ByteField where
  /-- `crc = LD.U8(46)` -/
  | received
  /-- `conf_i = LD.U8(8 + 3i)` -/
  | conf
deriving DecidableEq, Repr

/-- Which transient an `LD.U16LE` of the `DECODE` sequence fills (30_encoding.md R76). -/
inductive HalfField where
  /-- `sa = LD.U16LE(4)` -/
  | sa
  /-- `ea = LD.U16LE(42)` -/
  | ea
  /-- `dist_i = LD.U16LE(6 + 3i)` -/
  | dist
deriving DecidableEq, Repr

/-- The operations (30_encoding.md R74) and the `FRAME` pseudo-instruction (R82). -/
inductive Instr where
  /-- `F.SKIP`, 40_framer.md R101 -/
  | fSkip (b : Byte)
  /-- `F.SYNC`, R102 -/
  | fSync (b : Byte)
  /-- `F.LENOK`, R103 -/
  | fLenok (b : Byte)
  /-- `F.DESYNC`, R104 -/
  | fDesync (b : Byte)
  /-- `F.APPEND`, R105 -/
  | fAppend (b : Byte)
  /-- `F.EMIT`, R106 -/
  | fEmit (b : Byte)
  /-- `CRC.UPD`, 41_crc.md R121 -/
  | crcUpd (acc b : Byte)
  /-- `CRC.CALC`, R122 -/
  | crcCalc (m : List Byte)
  /-- `CRC.CHK`, R123 -/
  | crcChk (computed received : Byte)
  /-- `LD.U8`, 42_unpack.md R135 -/
  | ldU8 (f : Frame) (a : Fin 47) (d : ByteField)
  /-- `LD.U16LE`, R136 -/
  | ldU16le (f : Frame) (a : Fin 46) (d : HalfField)
  /-- `ANG.DIFF`, 43_angle.md R151 -/
  | angDiff (sa ea : Half)
  /-- `ANG.RAW`, R153 -/
  | angRaw (sa : Half) (diff : Int) (i : Fin 12)
  /-- `ANG.NORM`, R154 -/
  | angNorm (nraw : Int)
  /-- `PT.FILT`, 44_decode_emit.md R170 -/
  | ptFilt (dist : Half) (conf : Byte)
  /-- `DECODE`, R172 -/
  | decode (f : Frame)
  /-- `PUSH`, R181 -/
  | push (b : Byte)
  /-- `NOBYTE`, R182 -/
  | nobyte
  /-- `RESET`, 70_reset_and_hazards.md R230 -/
  | reset
  /-- `FRAME`, 30_encoding.md R62, R82 -/
  | frame (args : FrameArgs)
deriving DecidableEq, Repr

/-- The six format-B operations, as the select of 30_encoding.md R75 names them. -/
inductive FramerOp where
  | skip | sync | lenok | desync | append | emit
deriving DecidableEq, Repr

/-- The instruction a format-B operation is on the input byte `b`. -/
def FramerOp.instr (op : FramerOp) (b : Byte) : Instr :=
  match op with
  | .skip => .fSkip b
  | .sync => .fSync b
  | .lenok => .fLenok b
  | .desync => .fDesync b
  | .append => .fAppend b
  | .emit => .fEmit b

/-- An item of the host's stream: the three host operations, "no other" (44_decode_emit.md R180; nothing reaches a device,
60_exceptions.md R211), and the `FRAME` item of the
stream notation (30_encoding.md R81). -/
inductive HostItem where
  | push (b : Byte)
  | noByte
  | reset
  | frame (args : FrameArgs)
deriving DecidableEq, Repr

/-- The instruction a host item is. -/
def HostItem.instr : HostItem → Instr
  | .push b => .push b
  | .noByte => .nobyte
  | .reset => .reset
  | .frame args => .frame args

/-- An item of the stream notation (30_encoding.md R81). -/
inductive StreamItem where
  /-- `HH` -/
  | byte (b : Byte)
  /-- `HH*n` -/
  | rep (b : Byte) (n : Nat)
  /-- `FRAME(args)` -/
  | frame (args : FrameArgs)
  /-- `PART(args;n)` -/
  | part (args : FrameArgs) (n : Nat)
deriving DecidableEq, Repr

end Sys2Proof
end

