-- ==== Sys2Proof/Machine/Operands.lean ====
section
/-! DEFINITION. Operand assembly: how the decoder's operands are built from frame bytes (30_encoding.md R72,
42_unpack.md), and the fixed offsets of the `DECODE` sequence (30_encoding.md R61, R76). -/

namespace Sys2Proof

/-- `le16(lo, hi) = lo + 256*hi` (00_scope.md R10, 20_memory.md R44). -/
def le16 (lo hi : Byte) : Half := BitVec.ofNat 16 (lo.toNat + 256 * hi.toNat)

/-- The byte of a 16-bit field at the lower offset: value bits 7..0 (30_encoding.md R62). -/
def loByte (h : Half) : Byte := h.extractLsb' 0 8

/-- The byte of a 16-bit field at the higher offset: value bits 15..8 (30_encoding.md R62). -/
def hiByte (h : Half) : Byte := h.extractLsb' 8 8

/-- `u8(a) = frame[a]` (30_encoding.md R72). -/
def Frame.u8 (f : Frame) (a : Fin 47) : Byte := f[a.val]

/-- `u16le(a) = frame[a] + 256 * frame[a+1]` (30_encoding.md R72). Any offset will do, odd or even (20_memory.md R47). -/
def Frame.u16le (f : Frame) (a : Fin 46) : Half := le16 (f[a.val]'(by omega)) (f[a.val + 1]'(by omega))

/-- The bytes under the checksum: offsets 0 to 45 in ascending order (41_crc.md R122). -/
def Frame.covered (f : Frame) : List Byte := f.toList.take Config.crcLen

/-- The offset of the checksum byte (30_encoding.md R61). -/
def crcOffset : Fin 47 := 46

/-- The offset of the start angle. -/
def saOffset : Fin 46 := 4

/-- The offset of the end angle. -/
def eaOffset : Fin 46 := 42

/-- The offset of the distance of point `i`: `6 + 3i`. -/
def distOffset (i : Fin 12) : Fin 46 := ⟨6 + 3 * i.val, by omega⟩

/-- The offset of the confidence of point `i`: `8 + 3i`. -/
def confOffset (i : Fin 12) : Fin 47 := ⟨8 + 3 * i.val, by omega⟩

/-- The point indices in the order the decoder takes them (30_encoding.md R76, 44_decode_emit.md R173). -/
def pointOrder : List (Fin 12) := [0, 1, 2, 3, 4, 5, 6, 7, 8, 9, 10, 11]

/-- The list of bytes as a frame, when there are exactly 47. -/
def Frame.ofBytes? (l : List Byte) : Option Frame :=
  if h : l.length = 47 then some ⟨l.toArray, by simpa using h⟩ else none

end Sys2Proof
end

