-- ==== Sys2Proof/WellFormed.lean ====
section
/-! DEFINITION. Well-formed instructions and stream items: the operand conditions that the spec's rules state and the
types do not already carry. -/

namespace Sys2Proof

/-- The operand conditions of the rules. `F.SYNC` and `F.LENOK` are the marker and the sentinel, `F.SKIP` and
`F.DESYNC` any other byte (30_encoding.md R75); `diff` 18 bits signed (43_angle.md R153); `Nraw` 21 bits unsigned (R154);
a `DECODE` exposed on its own has both sentinels as a precondition (44_decode_emit.md R175, 92 D15). The offsets of
42_unpack.md R135 and R136 and the point index of R153 are bounded by their types. -/
def Instr.wf : Instr → Bool
  | .fSkip b => b != Config.marker
  | .fSync b => b == Config.marker
  | .fLenok b => b == Config.verlen
  | .fDesync b => b != Config.verlen
  | .fAppend _ => true
  | .fEmit _ => true
  | .crcUpd _ _ => true
  | .crcCalc _ => true
  | .crcChk _ _ => true
  | .ldU8 _ _ _ => true
  | .ldU16le _ _ _ => true
  | .angDiff _ _ => true
  | .angRaw _ diff _ => -131072 ≤ diff && diff ≤ 131071
  | .angNorm nraw => 0 ≤ nraw && nraw < 2097152
  | .ptFilt _ _ => true
  | .decode f => f[0] == Config.marker && f[1] == Config.verlen
  | .push _ => true
  | .nobyte => true
  | .reset => true
  | .frame _ => true

/-- `PART(args;n)` takes the first `n` bytes, `0 <= n <= 47` (30_encoding.md R81). -/
def StreamItem.wf : StreamItem → Bool
  | .byte _ => true
  | .rep _ _ => true
  | .frame _ => true
  | .part _ n => n ≤ Config.frameLen

end Sys2Proof
end

