-- ==== Sys2Proof/Decode.lean ====
section
/-! DEFINITION. Decoding and encoding. "A byte-level decoder of the block is rows 1 to 6 of rule R75 and nothing else"
(30_encoding.md R84): a byte is decoded against the Framer state `(sync, cnt)`. A 47-byte frame is decoded into the
fields of 30_encoding.md R61. After the decoders: the encoders, and the expansion of the stream notation (R81, R82). -/

namespace Sys2Proof

/-- Why a decoder rejects. -/
inductive DecodeError where
  /-- no byte to decode -/
  | noByte
  /-- `(sync, cnt)` breaks the invariant of 10_state.md R24, so R75 has no row for it -/
  | unreachableFramerState
  /-- fewer than 47 bytes -/
  | shortFrame
  /-- byte 0 is not `MARKER` -/
  | badMarker
  /-- byte 1 is not `VERLEN` -/
  | badVerlen
deriving DecidableEq, Repr

/-- What a decoder answers. -/
inductive Decoded (α : Type) where
  | ok (x : α)
  | reject (why : DecodeError)
deriving DecidableEq, Repr

/-- The operation select (30_encoding.md R75), row by row; `none` only off the invariant of 10_state.md R24. -/
def select (sync : Bool) (cnt : BitVec 6) (b : Byte) : Option FramerOp :=
  match sync with
  | false =>
    if cnt = 0#6 then if isMarker b then some .sync else some .skip
    else none
  | true =>
    if cnt = 1#6 then if isVerlen b then some .lenok else some .desync
    else if 2 ≤ cnt.toNat ∧ cnt.toNat ≤ 45 then some .append
    else if cnt = 46#6 then some .emit
    else none

/-- The byte decoder: the first byte of the list, in the Framer state `(sync, cnt)`, and the rest. -/
def decodeByte (sync : Bool) (cnt : BitVec 6) : List Byte → Decoded (Instr × List Byte)
  | [] => .reject .noByte
  | b :: rest =>
    match select sync cnt b with
    | some op => .ok (op.instr b, rest)
    | none => .reject .unreachableFramerState

/-- Point record `i` of a frame (30_encoding.md R68). -/
def Frame.point (f : Frame) (i : Fin 12) : Point := ⟨f.u16le (distOffset i), f.u8 (confOffset i)⟩

/-- The fields of a frame (30_encoding.md R61), the checksum as the byte it is. -/
def Frame.args (f : Frame) : FrameArgs where
  sa := f.u16le saOffset
  ea := f.u16le eaOffset
  pts := ⟨(pointOrder.map f.point).toArray, rfl⟩
  spd := f.u16le 2
  ts := f.u16le 44
  crc := .byte (f.u8 crcOffset)

/-- The frame decoder: the first 47 bytes of the list as a `FRAME`, and the rest (30_encoding.md R61 to R65). -/
def decodeFrame (l : List Byte) : Decoded (FrameArgs × List Byte) :=
  match Frame.ofBytes? (l.take Config.frameLen) with
  | none => .reject .shortFrame
  | some f =>
    if isMarker f[0] then
      if isVerlen f[1] then .ok (f.args, l.drop Config.frameLen) else .reject .badVerlen
    else .reject .badMarker

/-- Byte `k` of a word of spec/opcode_table.json: bits `8k + 7 .. 8k`, the first byte least significant, bits at `nbits`
and above zero. -/
def wordByte (nbits w k : Nat) : Byte := BitVec.ofNat 8 ((w >>> (8 * k)) % 2 ^ min 8 (nbits - 8 * k))

/-- The 47 bytes of a word. -/
def wordBytes (nbits w : Nat) : List Byte := (List.range Config.frameLen).map (wordByte nbits w)

/-- The Framer state in which a byte alone is looked up in spec/opcode_table.json, which has no state argument: the one
its `source_fields` give for the first row with the byte's full 8-bit match, Idle for `0x54` (F.SYNC), `cnt = 1` for
`0x2C` (F.LENOK), and Idle for every other byte (F.SKIP, the first row that matches any byte). DESIGN CHOICE, log
entry 9. -/
def tableContext (b : Byte) : Bool × BitVec 6 := if isVerlen b then (true, 1#6) else (false, 0#6)

/-- The instruction read from a word as spec/opcode_table.json numbers its bits: up to 8 bits, an input byte (log entry
9); more, a `FRAME` of 47 bytes. -/
def decodeTableWord (nbits w : Nat) : Option Instr :=
  if nbits ≤ 8 then
    match decodeByte (tableContext (wordByte nbits w 0)).1 (tableContext (wordByte nbits w 0)).2 [wordByte nbits w 0] with
    | .ok (i, _) => some i
    | .reject _ => none
  else
    match decodeFrame (wordBytes nbits w) with
    | .ok (args, _) => some (.frame args)
    | .reject _ => none

/-- The three bytes of a point record (30_encoding.md R61). -/
def Point.bytes (p : Point) : List Byte := [loByte p.dist, hiByte p.dist, p.conf]

/-- The first 46 bytes of a `FRAME` (30_encoding.md R82). -/
def FrameArgs.body (a : FrameArgs) : List Byte :=
  [Config.marker, Config.verlen, loByte a.spd, hiByte a.spd, loByte a.sa, hiByte a.sa] ++
  a.pts.toList.flatMap Point.bytes ++
  [loByte a.ea, hiByte a.ea, loByte a.ts, hiByte a.ts]

/-- The last byte of a `FRAME`: the checksum of the body, its complement, or a given byte (30_encoding.md R82). -/
def FrameArgs.crcByte (t : CrcTable) (a : FrameArgs) : Byte :=
  match a.crc with
  | .ok => t.crc8 a.body
  | .bad => t.crc8 a.body ^^^ 0xFF#8
  | .byte k => k

/-- The 47 bytes a `FRAME` expands to (30_encoding.md R82). -/
def FrameArgs.bytes (t : CrcTable) (a : FrameArgs) : List Byte := a.body ++ [a.crcByte t]

/-- The bytes of an instruction: a format-B operation is its input byte, a `FRAME` its 47 bytes; formats S and H have no
encoding (30_encoding.md R84). -/
def encode (t : CrcTable) : Instr → Option (List Byte)
  | .fSkip b => some [b]
  | .fSync b => some [b]
  | .fLenok b => some [b]
  | .fDesync b => some [b]
  | .fAppend b => some [b]
  | .fEmit b => some [b]
  | .crcUpd _ _ => none
  | .crcCalc _ => none
  | .crcChk _ _ => none
  | .ldU8 _ _ _ => none
  | .ldU16le _ _ _ => none
  | .angDiff _ _ => none
  | .angRaw _ _ _ => none
  | .angNorm _ => none
  | .ptFilt _ _ => none
  | .decode _ => none
  | .push _ => none
  | .nobyte => none
  | .reset => none
  | .frame a => some (a.bytes t)

/-- The bytes of a stream item (30_encoding.md R81). -/
def StreamItem.bytes (t : CrcTable) : StreamItem → List Byte
  | .byte b => [b]
  | .rep b n => List.replicate n b
  | .frame a => a.bytes t
  | .part a n => (a.bytes t).take n

/-- The bytes of a stream: the concatenation of the bytes of its items, in order (30_encoding.md R81). -/
def streamBytes (t : CrcTable) (items : List StreamItem) : List Byte := items.flatMap (StreamItem.bytes t)

end Sys2Proof
end

