-- ==== Sys2Proof/Machine/State.lean ====
section
/-! DEFINITION. The state of the block, as plain data (10_state.md), with what stands for the host: the pending input
and the record of what the ports delivered. -/

namespace Sys2Proof.Machine

/-- A Sample `(N, dist, conf)`: angle in degrees = `n / 1100` (30_encoding.md R73, 44_decode_emit.md R171). -/
structure Sample where
  n    : Int
  dist : Half
  conf : Byte
deriving DecidableEq, Repr

/-- The trace-only events: a candidate frame handed to the decoder (44_decode_emit.md R185) and the three silent drops
(60_exceptions.md R200). -/
inductive Event where
  | cand (f : Frame)
  /-- `E_DESYNC` -/
  | desync
  /-- `E_CRC` -/
  | crc
  /-- `E_LOWQ` -/
  | lowq
deriving DecidableEq, Repr

/-- BUF as a list of (offset, byte) cells in rising order; an unlisted offset has no value (10_state.md R21,
20_memory.md R40). -/
abbrev Memory := List Host.Cell

/-- The transient values of one `DECODE` (10_state.md R27). `diff`, `nraw`, `n` are exact integers (43_angle.md R150,
log entry 10); `samples` is the list `out` of 44_decode_emit.md R172. -/
structure Work where
  acc      : Byte
  received : Byte
  crcOk    : Bool
  sa       : Half
  ea       : Half
  diff     : Int
  dist     : Half
  conf     : Byte
  nraw     : Int
  n        : Int
  keep     : Bool
  samples  : List Sample
deriving DecidableEq, Repr

/-- Transients as every `DECODE` starts: `acc` at `CRC_INIT`, no Sample yet. The other values are DESIGN CHOICE, each
being written before it is read (log entry 4). -/
def Work.fresh : Work where
  acc := Config.crcInit
  received := 0#8
  crcOk := false
  sa := 0#16
  ea := 0#16
  diff := 0
  dist := 0#16
  conf := 0#8
  nraw := 0
  n := 0
  keep := false
  samples := []

/-- The state: the block's `(sync, cnt, buf)` (10_state.md R20), its ROM (R26), the transients (R27), and the host's side:
`input` (pending items, oldest first), `out` (the output stream of 00_scope.md R11), `trace` (the event history of
44_decode_emit.md R185). There is no device beside the core and no device register (60_exceptions.md R211). No rule of the
block reads `out` or `trace` (log entry 2). -/
structure State where
  /-- false = Idle, true = Accumulating (R23) -/
  sync  : Bool
  /-- the number of bytes in the buffer (R22) -/
  cnt   : BitVec 6
  buf   : Memory
  rom   : CrcTable
  work  : Work
  input : List HostItem
  out   : List Sample
  trace : List Event
deriving DecidableEq, Repr

/-- The block raises nothing (60_exceptions.md R200): there is no reason to fault (log entry 15). -/
inductive Fault where
deriving DecidableEq, Repr

/-- The reasons an instruction has no meaning. -/
inductive Refusal where
  /-- Raised by exec for an instruction with no meaning yet. Safe. -/
  | notModelled (mnemonic : String)
  /-- Raised by PUSH and the format-B operations in a state that breaks 10_state.md R24, on which "`Step` is not
  defined" (92 D17, 93 U5: refuse). Safe: no run from reset meets such a state. -/
  | illFormedFramerState
  /-- Raised by a format-B operation where 30_encoding.md R75 selects another one, so that the spec gives it no effect
  (log entry 6). Safe: no step runs an operation that is not selected. -/
  | notSelected
deriving DecidableEq, Repr

/-- After reset: Idle, empty buffer (10_state.md R30, 70_reset_and_hazards.md R230). The table is the default one (log
entry 3); nothing is pending and nothing was delivered (log entries 1, 2). -/
def State.reset : State where
  sync := false
  cnt := 0#6
  buf := []
  rom := defaultCrcTable
  work := Work.fresh
  input := []
  out := []
  trace := []

end Sys2Proof.Machine
end

