-- ==== Sys2Proof/Machine/Ops.lean ====
section
/-! DEFINITION. The named operations over the state: reading and writing BUF, the Framer registers, the invariant of
10_state.md R24, the ports, and the drop of 60_exceptions.md, which is all the exception entry this block has. -/

namespace Sys2Proof.Machine

/-- `buf[a]` (00_scope.md R10): no value where nothing has been appended since the marker (10_state.md R21). -/
def Memory.read (m : Memory) (a : Nat) : Option Byte := m.lookup a

/-- `buf[a] <- v` (00_scope.md R10): that byte only (20_memory.md R49), the cells kept in rising order. -/
def Memory.write : Memory → Nat → Byte → Memory
  | [], a, v => [(a, v)]
  | c :: m, a, v =>
    if a < c.1 then (a, v) :: c :: m
    else if a = c.1 then (a, v) :: m
    else c :: Memory.write m a v

/-- The canonical form: offsets strictly rising, all inside BUF (20_memory.md R40). -/
abbrev Memory.wf (m : Memory) : Prop :=
  (m.map Prod.fst).Pairwise (· < ·) ∧ ∀ a ∈ m.map Prod.fst, a < Config.frameLen

/-- The bytes of BUF in offset order. -/
def Memory.bytes (m : Memory) : List Byte := m.map Prod.snd

/-- The invariant of 10_state.md R24, parts (a) to (d) in order. -/
abbrev State.FramerWf (s : State) : Prop :=
  (s.sync = false ↔ s.cnt = 0#6) ∧
  (s.sync = true → 1 ≤ s.cnt.toNat ∧ s.cnt.toNat ≤ 46 ∧ s.buf.read 0 = some Config.marker) ∧
  (2 ≤ s.cnt.toNat → s.buf.read 1 = some Config.verlen) ∧
  s.buf.map Prod.fst = List.range s.cnt.toNat

/-- `sync`, `cnt` and `buf` written together. -/
def State.setFramer (s : State) (sync : Bool) (cnt : BitVec 6) (buf : Memory) : State :=
  { s with sync := sync, cnt := cnt, buf := buf }

/-- Idle with an empty buffer (10_state.md R30): what reset, a desync and an emitted frame leave. -/
def State.toIdle (s : State) : State := s.setFramer false 0#6 []

/-- The transients written. -/
def State.setWork (s : State) (w : Work) : State := { s with work := w }

/-- An event appended to the history (44_decode_emit.md R185). -/
def State.record (s : State) (e : Event) : State := { s with trace := s.trace ++ [e] }

/-- `drop <Event>` (00_scope.md R10): "no state other than what the rule says changes" and nothing is saved
(60_exceptions.md R206); there is no return operation (R207). -/
def State.drop (s : State) (e : Event) : State := s.record e

/-- The Samples of a step handed to the output port, in list order (44_decode_emit.md R184). -/
def State.deliver (s : State) (l : List Sample) : State := { s with out := s.out ++ l }

/-- The host's pending items replaced. -/
def State.setInput (s : State) (l : List HostItem) : State := { s with input := l }

/-- Bytes put before the host's pending items, to be pushed one per `PUSH` from left to right (30_encoding.md R81). -/
def State.offerBytes (s : State) (l : List Byte) : State := s.setInput (l.map .push ++ s.input)

/-- The next host item as an instruction, and the state without it; with nothing pending, `NOBYTE` (60_exceptions.md
R214, log entry 8). -/
def State.fetch (s : State) : Instr × State :=
  match s.input with
  | [] => (.nobyte, s)
  | item :: rest => (item.instr, s.setInput rest)

/-- A format-B operation runs where the invariant holds and 30_encoding.md R75 selects it, and is refused elsewhere
(log entry 6). -/
def whenSelected (op : FramerOp) (b : Byte) (s : State) (next : Host.Outcome State Fault Refusal) :
    Host.Outcome State Fault Refusal :=
  if s.FramerWf then
    if select s.sync s.cnt b = some op then next else .refused .notSelected
  else .refused .illFormedFramerState

end Sys2Proof.Machine
end

