-- ==== Sys2Proof/Machine/Angle.lean ====
section
/-! DEFINITION. Angle interpolation and wraparound (43_angle.md): ANG.DIFF, ANG.RAW, ANG.NORM, over the integers (R150,
log entries 10, 12, 13). -/

namespace Sys2Proof.Machine

/-- R151: the span of the frame, with the 0° straddle case. -/
def angleSpan (sa ea : Half) : Int :=
  if endNotBeforeStart sa ea then (ea.toNat : Int) - sa.toNat
  else (Config.angMod : Int) - sa.toNat + ea.toNat

/-- R153: `11 * sa + i * diff`. -/
def angleRaw (sa : Half) (diff : Int) (i : Fin 12) : Int := (Config.nstep : Int) * sa.toNat + (i.val : Int) * diff

/-- R154: 396000 subtracted once if `Nraw >= 396000`. -/
def angleNorm (nraw : Int) : Int := if reachesFullTurn nraw then nraw - (Config.fullTurn : Int) else nraw

/-- `ANG.DIFF` on the transients. -/
def runAngDiff (sa ea : Half) (s : State) : State := s.setWork { s.work with diff := angleSpan sa ea }

/-- `ANG.RAW` on the transients. -/
def runAngRaw (sa : Half) (diff : Int) (i : Fin 12) (s : State) : State :=
  s.setWork { s.work with nraw := angleRaw sa diff i }

/-- `ANG.NORM` on the transients. -/
def runAngNorm (nraw : Int) (s : State) : State := s.setWork { s.work with n := angleNorm nraw }

/-- `ANG.DIFF` -/
def execAngDiff (sa ea : Half) (s : State) : Host.Outcome State Fault Refusal := .next (runAngDiff sa ea s)

/-- `ANG.RAW` -/
def execAngRaw (sa : Half) (diff : Int) (i : Fin 12) (s : State) : Host.Outcome State Fault Refusal :=
  .next (runAngRaw sa diff i s)

/-- `ANG.NORM` -/
def execAngNorm (nraw : Int) (s : State) : Host.Outcome State Fault Refusal := .next (runAngNorm nraw s)

end Sys2Proof.Machine
end

