-- ==== Sys2Proof/Machine/Crc.lean ====
section
/-! DEFINITION. The CRC checker (41_crc.md): CRC.UPD, CRC.CALC, CRC.CHK. Each has its effect on the state (`run…`), total,
which the `DECODE` sequence chains, and its meaning (`exec…`). -/

namespace Sys2Proof.Machine

/-- R121: `acc <- CRC_TABLE[(acc XOR b) & 0xFF]`. -/
def runCrcUpd (acc b : Byte) (s : State) : State := s.setWork { s.work with acc := s.rom.update acc b }

/-- R122: `acc <- 0`, then one update for each byte of `m` in ascending order. -/
def runCrcCalc (m : List Byte) (s : State) : State :=
  m.foldl (fun t b => runCrcUpd t.work.acc b t) (s.setWork { s.work with acc := Config.crcInit })

/-- R123: on mismatch `drop E_CRC` and the empty Sample list. -/
def runCrcChk (computed received : Byte) (s : State) : State :=
  if crcMatches computed received then s.setWork { s.work with crcOk := true }
  else (s.setWork { s.work with crcOk := false, samples := [] }).drop .crc

/-- `CRC.UPD` -/
def execCrcUpd (acc b : Byte) (s : State) : Host.Outcome State Fault Refusal := .next (runCrcUpd acc b s)

/-- `CRC.CALC` -/
def execCrcCalc (m : List Byte) (s : State) : Host.Outcome State Fault Refusal := .next (runCrcCalc m s)

/-- `CRC.CHK` -/
def execCrcChk (computed received : Byte) (s : State) : Host.Outcome State Fault Refusal :=
  .next (runCrcChk computed received s)

end Sys2Proof.Machine
end

