-- ==== Sys2Proof/Machine/Unpack.lean ====
section
/-! DEFINITION. The field unpacker (42_unpack.md): LD.U8 and LD.U16LE. The spec returns a value; the model puts it into the
transient that the `DECODE` sequence assigns it to (log entry 5). -/

namespace Sys2Proof.Machine

/-- The transient of a one-byte field written. -/
def Work.setByte (w : Work) (d : ByteField) (v : Byte) : Work :=
  match d with
  | .received => { w with received := v }
  | .conf => { w with conf := v }

/-- The transient of a two-byte field written. -/
def Work.setHalf (w : Work) (d : HalfField) (v : Half) : Work :=
  match d with
  | .sa => { w with sa := v }
  | .ea => { w with ea := v }
  | .dist => { w with dist := v }

/-- R135: `frame[a]`. -/
def runLdU8 (f : Frame) (a : Fin 47) (d : ByteField) (s : State) : State := s.setWork (s.work.setByte d (f.u8 a))

/-- R136: `frame[a] + 256 * frame[a+1]`. -/
def runLdU16le (f : Frame) (a : Fin 46) (d : HalfField) (s : State) : State :=
  s.setWork (s.work.setHalf d (f.u16le a))

/-- `LD.U8` -/
def execLdU8 (f : Frame) (a : Fin 47) (d : ByteField) (s : State) : Host.Outcome State Fault Refusal :=
  .next (runLdU8 f a d s)

/-- `LD.U16LE` -/
def execLdU16le (f : Frame) (a : Fin 46) (d : HalfField) (s : State) : Host.Outcome State Fault Refusal :=
  .next (runLdU16le f a d s)

end Sys2Proof.Machine
end

