-- ==== Sys2Proof/Machine/Emit.lean ====
section
/-! DEFINITION. The point filter and the whole Frame Decoder (44_decode_emit.md R170 to R175), as the fixed sequence of
operations of 30_encoding.md R76. -/

namespace Sys2Proof.Machine

/-- R170: `keep <- (dist > 0) and (conf > 100)`; `drop E_LOWQ` where not. -/
def runPtFilt (dist : Half) (conf : Byte) (s : State) : State :=
  if keepPoint dist conf then s.setWork { s.work with keep := true }
  else (s.setWork { s.work with keep := false }).drop .lowq

/-- R172 step 6: `out <- out ++ [(N, dist, conf)]` for a point that passed the filter. -/
def emitIfKept (s : State) : State :=
  if s.work.keep then
    s.setWork { s.work with samples := s.work.samples ++ [⟨s.work.n, s.work.dist, s.work.conf⟩] }
  else s

/-- One turn of the loop of R172: LD.U16LE, LD.U8, ANG.RAW, ANG.NORM, PT.FILT, emission. -/
def runPoint (f : Frame) (s : State) (i : Fin 12) : State :=
  let s := runLdU16le f (distOffset i) .dist s
  let s := runLdU8 f (confOffset i) .conf s
  let s := runAngRaw s.work.sa s.work.diff i s
  let s := runAngNorm s.work.nraw s
  let s := runPtFilt s.work.dist s.work.conf s
  emitIfKept s

/-- R172 steps 1 and 2, on transients that start fresh (10_state.md R27). -/
def runCheck (f : Frame) (s : State) : State :=
  let s := s.setWork Work.fresh
  let s := runCrcCalc f.covered s
  let s := runLdU8 f crcOffset .received s
  runCrcChk s.work.acc s.work.received s

/-- R172 steps 3 and 4. -/
def runSpan (f : Frame) (s : State) : State :=
  let s := runLdU16le f saOffset .sa s
  let s := runLdU16le f eaOffset .ea s
  runAngDiff s.work.sa s.work.ea s

/-- R172: `DECODE(frame)`; it tests the checksum only (90 C1). -/
def runDecode (f : Frame) (s : State) : State :=
  let s := runCheck f s
  if s.work.crcOk then pointOrder.foldl (runPoint f) (runSpan f s) else s

/-- `PT.FILT` -/
def execPtFilt (dist : Half) (conf : Byte) (s : State) : Host.Outcome State Fault Refusal :=
  .next (runPtFilt dist conf s)

/-- `DECODE` -/
def execDecode (f : Frame) (s : State) : Host.Outcome State Fault Refusal := .next (runDecode f s)

end Sys2Proof.Machine
end

