-- ==== Sys2Proof/Machine/Framer.lean ====
section
/-! DEFINITION. The Framer (40_framer.md): F.SKIP, F.SYNC, F.LENOK, F.DESYNC, F.APPEND, F.EMIT. -/

namespace Sys2Proof.Machine

/-- R102, R103, R105: `buf[cnt] <- b; cnt <- cnt + 1; sync <- 1`. -/
def appendByte (b : Byte) (s : State) : State := s.setFramer true (s.cnt + 1#6) (s.buf.write s.cnt.toNat b)

/-- R106 after the frame is complete: the Framer returns to Idle, the copy `f` goes to `DECODE` inside the same step,
the step's output is `DECODE`'s Sample list, and no transient survives the step (10_state.md R27). All of it is done when
the step ends, so the very next byte may start a frame (70_reset_and_hazards.md R247). -/
def emitFrame (f : Frame) (s : State) : State :=
  let t := runDecode f (s.toIdle.record (.cand f))
  (t.deliver t.work.samples).setWork Work.fresh

/-- `F.SKIP`: nothing. -/
def execFSkip (b : Byte) (s : State) : Host.Outcome State Fault Refusal := whenSelected .skip b s (.next s)

/-- `F.SYNC`: the buffer is exactly this one byte. -/
def execFSync (b : Byte) (s : State) : Host.Outcome State Fault Refusal :=
  whenSelected .sync b s (.next (s.setFramer true 1#6 (Memory.write [] 0 b)))

/-- `F.LENOK` -/
def execFLenok (b : Byte) (s : State) : Host.Outcome State Fault Refusal :=
  whenSelected .lenok b s (.next (appendByte b s))

/-- `F.DESYNC`: the byte is consumed and not examined again. -/
def execFDesync (b : Byte) (s : State) : Host.Outcome State Fault Refusal :=
  whenSelected .desync b s (.next (s.toIdle.drop .desync))

/-- `F.APPEND` -/
def execFAppend (b : Byte) (s : State) : Host.Outcome State Fault Refusal :=
  whenSelected .append b s (.next (appendByte b s))

/-- `F.EMIT`: `buf[46] <- b`, `frame <- buf[0..46]`, then `emitFrame`. The buffer has 47 bytes there by 10_state.md R24;
a buffer that has not is an ill-formed state. -/
def execFEmit (b : Byte) (s : State) : Host.Outcome State Fault Refusal :=
  whenSelected .emit b s
    (match Frame.ofBytes? (s.buf.write 46 b).bytes with
    | some f => .next (emitFrame f s)
    | none => .refused .illFormedFramerState)

end Sys2Proof.Machine
end

