-- ==== Sys2Proof/Machine/Port.lean ====
section
/-! DEFINITION. What the host does to the block: PUSH, NOBYTE, RESET (44_decode_emit.md R180), and the FRAME
pseudo-instruction of the stream notation (30_encoding.md R82). -/

namespace Sys2Proof.Machine

/-- `PUSH`: the byte selects one Framer operation (30_encoding.md R75), which runs to completion (44_decode_emit.md
R181). -/
def execPush (b : Byte) (s : State) : Host.Outcome State Fault Refusal :=
  match select s.sync s.cnt b with
  | some .skip => execFSkip b s
  | some .sync => execFSync b s
  | some .lenok => execFLenok b s
  | some .desync => execFDesync b s
  | some .append => execFAppend b s
  | some .emit => execFEmit b s
  | none => .refused .illFormedFramerState

/-- `NOBYTE`: the identity (44_decode_emit.md R182). -/
def execNobyte (s : State) : Host.Outcome State Fault Refusal := .next s

/-- `RESET`: Idle with an empty buffer, no output, no drop event, in any state (70_reset_and_hazards.md R230, R231); the
table, the pending input and the records of the ports stand (log entry 16). -/
def execReset (s : State) : Host.Outcome State Fault Refusal := .next s.toIdle

/-- `FRAME`: it expands to its 47 bytes, which wait to be pushed one per `PUSH` (30_encoding.md R81, R82, log entry 7). -/
def execFrame (args : FrameArgs) (s : State) : Host.Outcome State Fault Refusal :=
  .next (s.offerBytes (args.bytes s.rom))

end Sys2Proof.Machine
end

