-- ==== Sys2Proof/Machine/Dispatch.lean ====
section
/-! DEFINITION. One arm per constructor of Instr. -/

namespace Sys2Proof.Machine

def exec (i : Instr) (s : State) : Host.Outcome State Fault Refusal :=
  match i with
  | .fSkip b => Sys2Proof.Machine.execFSkip b s
  | .fSync b => Sys2Proof.Machine.execFSync b s
  | .fLenok b => Sys2Proof.Machine.execFLenok b s
  | .fDesync b => Sys2Proof.Machine.execFDesync b s
  | .fAppend b => Sys2Proof.Machine.execFAppend b s
  | .fEmit b => Sys2Proof.Machine.execFEmit b s
  | .crcUpd acc b => Sys2Proof.Machine.execCrcUpd acc b s
  | .crcCalc m => Sys2Proof.Machine.execCrcCalc m s
  | .crcChk computed received => Sys2Proof.Machine.execCrcChk computed received s
  | .ldU8 f a d => Sys2Proof.Machine.execLdU8 f a d s
  | .ldU16le f a d => Sys2Proof.Machine.execLdU16le f a d s
  | .angDiff sa ea => Sys2Proof.Machine.execAngDiff sa ea s
  | .angRaw sa diff k => Sys2Proof.Machine.execAngRaw sa diff k s
  | .angNorm nraw => Sys2Proof.Machine.execAngNorm nraw s
  | .ptFilt dist conf => Sys2Proof.Machine.execPtFilt dist conf s
  | .decode f => Sys2Proof.Machine.execDecode f s
  | .push b => Sys2Proof.Machine.execPush b s
  | .nobyte => Sys2Proof.Machine.execNobyte s
  | .reset => Sys2Proof.Machine.execReset s
  | .frame args => Sys2Proof.Machine.execFrame args s

end Sys2Proof.Machine
end

