-- ==== Sys2Proof/Machine/Fetch.lean ====
section
/-! DEFINITION. Where the next instruction comes from, for a word of spec/opcode_table.json (log entry 9). -/

namespace Sys2Proof.Machine

/-- A buffer as the Framer holds it after the marker. -/
def bufAfterMarker : Memory := [(0, Config.marker)]

/-- The Framer in the state in which the byte of a format-B instruction selects it, left alone where it is already:
`F.LENOK` needs `cnt = 1`, `F.SYNC` and `F.SKIP` need Idle. -/
def State.selectFor (s : State) (b : Byte) : State :=
  if (s.sync, s.cnt) = tableContext b then s
  else if isVerlen b then s.setFramer true 1#6 bufAfterMarker
  else s.toIdle

/-- The host item that carries a word, put before the pending ones. -/
def State.offerItem (s : State) (item : HostItem) : State := s.setInput (item :: s.input)

/-- The word of a row stored where the step takes its next instruction from: a byte as a `PUSH`, with the Framer in the
row's state; more bits as a `FRAME` item. -/
def State.offerWord (s : State) (nbits w : Nat) : State :=
  if nbits ≤ 8 then (s.selectFor (wordByte nbits w 0)).offerItem (.push (wordByte nbits w 0))
  else
    match decodeFrame (wordBytes nbits w) with
    | .ok (args, _) => s.offerItem (.frame args)
    | .reject _ => s.offerBytes (wordBytes nbits w)

end Sys2Proof.Machine
end

