-- ==== Sys2Proof/Machine/Stream.lean ====
section
/-! DEFINITION. The block on an input stream: the left fold of the step of 44_decode_emit.md R181 over the bytes
(00_scope.md R11); on a finite stream the run ends after the last byte's step (70_reset_and_hazards.md R236). The fields
`out` and `trace` of the final state hold the concatenated output and the events. -/

namespace Sys2Proof.Machine

/-- The bytes pushed one after the other, nothing required between two of them (70_reset_and_hazards.md R247); it stops at
a refusal. -/
def pushAll : List Byte → State → Host.Outcome State Fault Refusal
  | [], s => .next s
  | b :: l, s =>
    match execPush b s with
    | .next t => pushAll l t
    | .fault r => .fault r
    | .refused r => .refused r

end Sys2Proof.Machine
end

