-- ==== Sys2Proof/Machine/Step.lean ====
section
/-! DEFINITION. One step of the machine: the next host item runs. -/

namespace Sys2Proof.Machine

/-- The next pending item is taken and run to completion (00_scope.md R3, 44_decode_emit.md R181). This is the one thread
of control that touches the buffer, and "one step at a time" is the whole of its order (70_reset_and_hazards.md R247): no
delay slot, no write that lands later, no byte required between two frames. It is a function of the state alone: no device,
no motor and no line outside the block enters it (60_exceptions.md R211). -/
def step (s : State) : Host.Outcome State Fault Refusal := exec s.fetch.1 s.fetch.2

/-- `s` with the word of a row of spec/opcode_table.json as the next thing to run (log entry 9). -/
def State.withFetchWord (s : State) (nbits w : Nat) : State := s.offerWord nbits w

end Sys2Proof.Machine
end

