-- ==== Sys2Proof/Safety.lean ====
section
/-! DEFINITION. What counts as a good state and a safe run, in the terms the statements use. -/

namespace Sys2Proof

open Sys2Proof.Machine

/-- A state at a step boundary: the Framer invariant (10_state.md R24), BUF in canonical form, a table that is a
permutation (41_crc.md R126), no transient alive (10_state.md R27). -/
structure Inv (s : State) : Prop where
  framer : s.FramerWf
  memory : s.buf.wf
  table : s.rom.IsPermutation
  transients : s.work = Work.fresh

/-- No fault and no refusal. -/
def Runs (o : Host.Outcome State Fault Refusal) : Prop := ∃ t, o = .next t

end Sys2Proof
end

