-- ==== Sys2Proof/Certificates/Slice0/Obligations.lean ====
section
/-! DEFINITION. The statements about the model. First, in namespace Sys2Proof.Claims, what they are stated in: the fields of
a frame, the samples it stands for and the events of a step, written out in plain arithmetic from 30_encoding.md R61 and
44_decode_emit.md R172, not through the model's own operations. "Appended to `out`" means: output by the step (the field
`out` holds the output stream of 00_scope.md R11, log entry 2). -/

open Sys2Proof Sys2Proof.Machine

namespace Sys2Proof.Claims

/-- The little-endian 16-bit field at offset `a`, as a number. -/
def halfAt (f : Frame) (a : Fin 46) : Nat := (f[a.val]'(by omega)).toNat + 256 * (f[a.val + 1]'(by omega)).toNat

/-- The distance of point `i`, offsets `6+3i` and `7+3i`. -/
def distOf (f : Frame) (i : Fin 12) : Nat := halfAt f ⟨6 + 3 * i.val, by omega⟩

/-- The confidence of point `i`, offset `8+3i`. -/
def confOf (f : Frame) (i : Fin 12) : Byte := f[8 + 3 * i.val]'(by omega)

/-- The angular span of start and end angle, with the 0° straddle case. -/
def span (sa ea : Nat) : Int := if sa ≤ ea then (ea : Int) - sa else 36000 - (sa : Int) + ea

/-- The angle numerator of point `i` before normalization. -/
def rawAngle (sa ea : Nat) (i : Fin 12) : Int := 11 * (sa : Int) + (i.val : Int) * span sa ea

/-- The angle numerator of point `i`: one turn of 396000 subtracted once. -/
def angle (sa ea : Nat) (i : Fin 12) : Int :=
  if 396000 ≤ rawAngle sa ea i then rawAngle sa ea i - 396000 else rawAngle sa ea i

/-- The Sample of point `i`. -/
def sample (f : Frame) (i : Fin 12) : Sample :=
  ⟨angle (halfAt f 4) (halfAt f 42) i, BitVec.ofNat 16 (distOf f i), confOf f i⟩

/-- Point `i` passes the filter. -/
def kept (f : Frame) (i : Fin 12) : Bool := 0 < distOf f i && 100 < (confOf f i).toNat

/-- The Samples of an accepted frame: the kept points in ascending index. -/
def samples (f : Frame) : List Sample := ((List.finRange 12).filter (kept f)).map (sample f)

/-- The checksum of offsets 0 to 45 equals the byte at offset 46. -/
abbrev accepted (t : CrcTable) (f : Frame) : Prop := t.crc8 (f.toList.take 46) = f[46]

/-- What a candidate frame yields: its Samples if accepted, nothing otherwise. -/
def output (t : CrcTable) (f : Frame) : List Sample := if accepted t f then samples f else []

/-- The drops of a `DECODE`: `E_CRC` alone, or one `E_LOWQ` for each point that is not emitted. -/
def drops (t : CrcTable) (f : Frame) : List Event :=
  if accepted t f then List.replicate (12 - (samples f).length) .lowq else [.crc]

/-- The candidate frames of an event history, in order. -/
def candidates (l : List Event) : List Frame := l.filterMap fun e => match e with | .cand f => some f | _ => none

/-- The frames are consecutive bytes of the stream, in order, none overlapping another. -/
def inOrderIn : List Frame → List Byte → Prop
  | [], _ => True
  | f :: fs, l => ∃ before after, l = before ++ f.toList ++ after ∧ inOrderIn fs after

/-- The format-S operations (30_encoding.md R74). -/
def isFormatS : Instr → Bool
  | .crcUpd _ _ | .crcCalc _ | .crcChk _ _ | .ldU8 _ _ _ | .ldU16le _ _ _ | .angDiff _ _ | .angRaw _ _ _
  | .angNorm _ | .ptFilt _ _ | .decode _ => true
  | .fSkip _ | .fSync _ | .fLenok _ | .fDesync _ | .fAppend _ | .fEmit _ | .push _ | .nobyte | .reset | .frame _ => false

/-- The Framer states of the row of 30_encoding.md R75 that selects `op`. -/
def rowOf (op : FramerOp) (sync : Bool) (cnt : Nat) : Prop :=
  match op with
  | .sync | .skip => sync = false ∧ cnt = 0
  | .lenok | .desync => sync = true ∧ cnt = 1
  | .append => sync = true ∧ 2 ≤ cnt ∧ cnt ≤ 45
  | .emit => sync = true ∧ cnt = 46

/-- The bytes of that row. -/
def byteOf (op : FramerOp) (b : Byte) : Prop :=
  match op with
  | .sync => b = 0x54#8
  | .skip => b ≠ 0x54#8
  | .lenok => b = 0x2C#8
  | .desync => b ≠ 0x2C#8
  | .append | .emit => True

/-- The Samples that the arguments of a `FRAME` stand for. -/
def argSamples (a : FrameArgs) : List Sample :=
  ((List.finRange 12).filter fun i => 0 < a.pts[i].dist.toNat && 100 < a.pts[i].conf.toNat).map fun i =>
    ⟨angle a.sa.toNat a.ea.toNat i, a.pts[i].dist, a.pts[i].conf⟩

/-- The events a byte's step adds when it is `F.EMIT`: the hand-over, then the drops of `DECODE`. -/
def emitEvents (t : CrcTable) (f : Frame) : List Event := .cand f :: drops t f

end Sys2Proof.Claims

open Sys2Proof.Claims

/-! ### Reset, the invariant, the step -/

/-- 10_state.md section 3: Idle, cursor 0, no byte of the buffer has a value; the default table (log entry 3), nothing
pending and nothing delivered (log entries 1, 2: the model's choices). -/
def Obligations.ResetStateIsIdleAndEmpty : Prop :=
  State.reset.sync = false ∧ State.reset.cnt = 0#6 ∧ (∀ a, State.reset.buf.read a = none) ∧
  State.reset.rom = defaultCrcTable ∧ State.reset.input = [] ∧ State.reset.out = [] ∧ State.reset.trace = []

/-- The reset state meets the invariant. Two parts rest on reset values that the model names: the default table (PRESUMED,
log entry 3), and the transients at `Work.fresh`, to which 10_state.md section 3 gives no reset value (DESIGN CHOICE, unsafe,
log entry 4). -/
def Obligations.ResetMeetsInvariant : Prop := Inv State.reset

/-- 10_state.md section 1, "State invariant", kept by every step from every state that has it. -/
def Obligations.StepKeepsInvariant : Prop := ∀ s t : State, Inv s → step s = .next t → Inv t

/-- 60_exceptions.md section 1: no input can fault, stall or stop the block. -/
def Obligations.StepNeverStops : Prop := ∀ s : State, s.FramerWf → Runs (step s)

/-- A step takes the next host item and runs it; with nothing pending it is NOBYTE (log entries 1, 8). -/
def Obligations.StepRunsNextHostItem : Prop :=
  (∀ (s : State) (b : Byte) (rest : List HostItem), s.input = .push b :: rest →
    step s = exec (.push b) { s with input := rest }) ∧
  (∀ (s : State) (rest : List HostItem), s.input = .noByte :: rest → step s = exec .nobyte { s with input := rest }) ∧
  (∀ (s : State) (rest : List HostItem), s.input = .reset :: rest → step s = exec .reset { s with input := rest }) ∧
  (∀ (s : State) (a : FrameArgs) (rest : List HostItem), s.input = .frame a :: rest →
    step s = exec (.frame a) { s with input := rest }) ∧
  (∀ s : State, s.input = [] → step s = exec .nobyte s)

/-- A step on a pending byte runs the format-B instruction that the byte decoder reads from it in the present Framer
state, on the state without that byte; what the decoder reads is well formed. -/
def Obligations.StepRunsDecodedInstruction : Prop :=
  ∀ (s : State) (b : Byte) (rest : List HostItem) (i : Instr) (more : List Byte),
    s.input = .push b :: rest → decodeByte s.sync s.cnt (b :: more) = .ok (i, more) →
    i.wf = true ∧ step s = exec i { s with input := rest }

/-- The model's convention for a word of the opcode table (log entry 9): the very next step runs the instruction that
the decoder reads from the word. -/
def Obligations.FetchedTableWordRunsNext : Prop :=
  ∀ (s : State) (nbits w : Nat) (i : Instr), decodeTableWord nbits w = some i →
    step (s.withFetchWord nbits w) = exec i { s.withFetchWord nbits w with input := s.input }

/-! ### The Framer -/

/-- 30_encoding.md R75: the six rows, as they stand, and exactly one operation for every well-formed state and byte, which
runs. -/
def Obligations.ExactlyOneFramerOperationPerByte : Prop :=
  ∀ (s : State) (b : Byte), s.FramerWf →
    (∀ op, select s.sync s.cnt b = some op ↔ rowOf op s.sync s.cnt.toNat ∧ byteOf op b) ∧
    (∃ op, select s.sync s.cnt b = some op) ∧
    (∀ op, select s.sync s.cnt b = some op → Runs (exec (op.instr b) s))

/-- 40_framer.md R101. -/
def Obligations.SkipLeavesIdleBlockUnchanged : Prop :=
  ∀ (s : State) (b : Byte), s.FramerWf → s.sync = false → s.cnt = 0#6 → b ≠ 0x54#8 → exec (.fSkip b) s = .next s

/-- 40_framer.md R102: the buffer is exactly the marker; nothing but `sync`, `cnt`, `buf` is written. -/
def Obligations.SyncStartsAccumulatingWithMarker : Prop :=
  ∀ (s : State) (b : Byte), s.FramerWf → s.sync = false → s.cnt = 0#6 → b = 0x54#8 →
    exec (.fSync b) s = .next { s with sync := true, cnt := 1#6, buf := [(0, 0x54#8)] }

/-- 40_framer.md R103: `buf' = [0x54, 0x2C]`, `cnt' = 2`, `sync' = 1`; nothing else is written. -/
def Obligations.LenokAppendsLengthSentinel : Prop :=
  ∀ (s : State) (b : Byte), s.FramerWf → s.sync = true → s.cnt = 1#6 → b = 0x2C#8 →
    exec (.fLenok b) s = .next { s with cnt := 2#6, buf := [(0, 0x54#8), (1, 0x2C#8)] }

/-- 40_framer.md R104: Idle with an empty buffer, one `E_DESYNC`, whatever the byte is, 0x54 included. -/
def Obligations.DesyncDiscardsBufferAndByte : Prop :=
  ∀ (s : State) (b : Byte), s.FramerWf → s.sync = true → s.cnt = 1#6 → b ≠ 0x2C#8 →
    exec (.fDesync b) s = .next { s with sync := false, cnt := 0#6, buf := [], trace := s.trace ++ [.desync] }

/-- 40_framer.md R105: the byte is written at offset `cnt`, `cnt` goes up by one without wrapping, every other offset of
the buffer reads as before, and no other field changes. -/
def Obligations.AppendWritesOneByteAtCursor : Prop :=
  ∀ (s : State) (b : Byte), s.FramerWf → s.sync = true → 2 ≤ s.cnt.toNat → s.cnt.toNat ≤ 45 →
    ∃ t, exec (.fAppend b) s = .next t ∧
      t = { s with cnt := t.cnt, buf := t.buf } ∧
      t.cnt.toNat = s.cnt.toNat + 1 ∧
      t.buf.bytes = s.buf.bytes ++ [b] ∧
      t.buf.read s.cnt.toNat = some b ∧
      ∀ a, a ≠ s.cnt.toNat → t.buf.read a = s.buf.read a

/-- 40_framer.md R106: the candidate frame is the 46 bytes of the buffer and this one; it is handed to `DECODE` in the
same step, whose Samples are the step's output; the Framer is Idle with an empty buffer whether it is accepted or not. -/
def Obligations.EmitDecodesFrameAndReturnsToIdle : Prop :=
  ∀ (s : State) (b : Byte), s.FramerWf → s.sync = true → s.cnt = 46#6 →
    ∃ (t : State) (f : Frame), exec (.fEmit b) s = .next t ∧
      f.toList = s.buf.bytes ++ [b] ∧
      t.sync = false ∧ t.cnt = 0#6 ∧ t.buf = [] ∧
      t.out = s.out ++ output s.rom f ∧
      t.trace = s.trace ++ emitEvents s.rom f ∧
      t.rom = s.rom ∧ t.input = s.input

/-- A format-B operation is refused where another is selected, and it and PUSH are refused in a state that breaks the
invariant (log entry 6, 92 D17, 93 U5). -/
def Obligations.UnselectedOrIllFormedIsRefused : Prop :=
  (∀ (s : State) (b : Byte) (op : FramerOp), s.FramerWf → select s.sync s.cnt b ≠ some op →
    exec (op.instr b) s = .refused .notSelected) ∧
  (∀ (s : State) (b : Byte) (op : FramerOp), ¬ s.FramerWf → exec (op.instr b) s = .refused .illFormedFramerState) ∧
  (∀ (s : State) (b : Byte), ¬ s.FramerWf → exec (.push b) s = .refused .illFormedFramerState)

/-- 10_state.md section 1 (the cursor and the flag): what each Framer operation leaves in `cnt` and `sync`; the cursor
never wraps. -/
def Obligations.FramerOperationsSetCursorAndFlag : Prop :=
  ∀ (op : FramerOp) (b : Byte) (s t : State), exec (op.instr b) s = .next t →
    t.cnt.toNat = (match op with
      | .skip | .desync | .emit => 0
      | .sync => 1
      | .lenok | .append => s.cnt.toNat + 1) ∧
    t.sync = (match op with
      | .sync => true
      | .desync | .emit => false
      | .skip | .lenok | .append => s.sync)

/-- 40_framer.md section 3 (output contract) and 44_decode_emit.md section 2 (validity): a byte's step adds a candidate
frame exactly when it is the 47th; that frame is the buffer and the byte, starts with both sentinels, and is dropped with
`E_CRC` exactly when it is not valid. -/
def Obligations.CandidateFramesCarryBothSentinels : Prop :=
  ∀ (s t : State) (b : Byte), s.FramerWf → exec (.push b) s = .next t →
    ∃ new, t.trace = s.trace ++ new ∧
      (∀ f, .cand f ∈ new → f.toList = s.buf.bytes ++ [b] ∧ f[0] = 0x54#8 ∧ f[1] = 0x2C#8 ∧
        (.crc ∈ new ↔ ¬ (f[0] = 0x54#8 ∧ f[1] = 0x2C#8 ∧ accepted s.rom f))) ∧
      (candidates new).length = if s.cnt = 46#6 then 1 else 0

/-- 40_framer.md section 3: once two bytes are in, no byte value returns the Framer to Idle before the 47th. -/
def Obligations.NoMidFrameResynchronization : Prop :=
  ∀ (s : State) (l : List Byte), s.FramerWf → 2 ≤ s.cnt.toNat → s.cnt.toNat + l.length ≤ 46 →
    ∃ t, pushAll l s = .next t ∧ t.sync = true ∧ t.cnt.toNat = s.cnt.toNat + l.length ∧
      t.buf.bytes = s.buf.bytes ++ l ∧ t.out = s.out ∧ t.trace = s.trace

/-- 70_reset_and_hazards.md section 3, no look-back: from Idle, a marker and a byte that is not the sentinel (a second
marker too) leave Idle and one `E_DESYNC`; a true frame that starts with that byte goes on in Idle at its second byte. -/
def Obligations.RejectedSecondByteIsNotLookedAtAgain : Prop :=
  ∀ (s : State) (b : Byte) (l : List Byte), s.FramerWf → s.sync = false → b ≠ 0x2C#8 →
    pushAll (0x54#8 :: b :: l) s = pushAll l { s with trace := s.trace ++ [.desync] } ∧
    pushAll (0x54#8 :: 0x54#8 :: 0x2C#8 :: l) s = pushAll l { s with trace := s.trace ++ [.desync] }

/-- 30_encoding.md section 4: in Idle, bytes other than the marker change nothing and produce nothing, however many. -/
def Obligations.NoiseInIdleIsIgnored : Prop :=
  ∀ (s : State) (l : List Byte), s.FramerWf → s.sync = false → 0x54#8 ∉ l → pushAll l s = .next s

/-- 40_framer.md section 3, the worked trace: `54 99 54 2C` and 45 more bytes give exactly one candidate frame, made of
stream bytes 3 to 49. -/
def Obligations.ResynchronizesAfterFalseStart : Prop :=
  ∀ (s : State) (tail : List Byte), s.FramerWf → s.sync = false → tail.length = 45 →
    ∃ (t : State) (f : Frame), pushAll ([0x54#8, 0x99#8, 0x54#8, 0x2C#8] ++ tail) s = .next t ∧
      f.toList = [0x54#8, 0x2C#8] ++ tail ∧
      t.trace = s.trace ++ .desync :: emitEvents s.rom f ∧ t.out = s.out ++ output s.rom f ∧
      t.sync = false ∧ t.cnt = 0#6 ∧ t.buf = []

/-- 40_framer.md section 3: on any stream from Idle (not from inside a partial frame), the candidate frames are
consecutive bytes of the stream, in stream order, none overlapping another, each starting with both sentinels; and
70_reset_and_hazards.md section 3: every Sample of the output comes from one of them, accepted by its checksum. -/
def Obligations.OutputComesFromConsecutiveStreamBytes : Prop :=
  ∀ (s t : State) (l : List Byte), s.FramerWf → s.sync = false → pushAll l s = .next t →
    ∃ new, t.trace = s.trace ++ new ∧
      inOrderIn (candidates new) l ∧
      (∀ f ∈ candidates new, f[0] = 0x54#8 ∧ f[1] = 0x2C#8) ∧
      t.out = s.out ++ (candidates new).flatMap (output s.rom)

/-! ### The checksum -/

/-- 41_crc.md R121, with no mask: on 8-bit values it changes nothing. -/
def Obligations.CrcUpdLooksUpOneEntry : Prop :=
  ∀ (s : State) (acc b : Byte),
    exec (.crcUpd acc b) s = .next { s with work := { s.work with acc := s.rom[(acc ^^^ b).toNat] } }

/-- 41_crc.md R122: the accumulator after the bytes of `m` in ascending order, from 0. -/
def Obligations.CrcCalcFoldsUpdatesFromZero : Prop :=
  (∀ (s : State) (m : List Byte),
    exec (.crcCalc m) s = .next { s with work := { s.work with acc := s.rom.crc8 m } }) ∧
  (∀ t : CrcTable, t.crc8 [] = 0#8) ∧
  (∀ (t : CrcTable) (m : List Byte) (b : Byte), t.crc8 (m ++ [b]) = t[(t.crc8 m ^^^ b).toNat])

/-- 41_crc.md section 1, the compare: the outcome and the drop. The transients that hold the outcome, `crcOk` and the
emptied `samples`, are the model's choice (DESIGN CHOICE, log entry 5). -/
def Obligations.CrcChkDropsOnMismatchOnly : Prop :=
  ∀ (s : State) (computed received : Byte),
    (computed = received →
      exec (.crcChk computed received) s = .next { s with work := { s.work with crcOk := true } }) ∧
    (computed ≠ received →
      exec (.crcChk computed received) s = .next { s with
        work := { s.work with crcOk := false, samples := [] }, trace := s.trace ++ [.crc] })

/-- The default table is the one generated (41_crc.md section 2; PRESUMED, log entry 3) and is a permutation. -/
def Obligations.DefaultTableIsGeneratedPermutation : Prop :=
  (∀ i : Byte, defaultCrcTable.entry i = crcGenEntry i) ∧ defaultCrcTable.IsPermutation

/-- With the default table (PRESUMED, log entry 3) the update run over a message and its own checksum ends at 0. -/
def Obligations.DefaultTableMessageWithChecksumEndsAtZero : Prop :=
  ∀ m : List Byte, defaultCrcTable.crc8 (m ++ [defaultCrcTable.crc8 m]) = 0#8

/-- 41_crc.md section 2: with any permutation table, a change of one byte changes the checksum. -/
def Obligations.OneByteChangeChangesChecksum : Prop :=
  ∀ (t : CrcTable) (m : List Byte) (k : Nat) (h : k < m.length) (b : Byte),
    t.IsPermutation → b ≠ m[k] → t.crc8 (m.set k b) ≠ t.crc8 m

/-- 41_crc.md section 2: with a table that is not a permutation some one-byte change of 46 bytes goes undetected. -/
def Obligations.NonPermutationTableMissesOneByteChange : Prop :=
  ∀ t : CrcTable, ¬ t.IsPermutation →
    ∃ (m : List Byte) (k : Nat) (b : Byte), m.length = 46 ∧ m.set k b ≠ m ∧ t.crc8 (m.set k b) = t.crc8 m

/-- 95_test_vectors.md S1: a mutation of any one byte of an accepted frame, the checksum byte included, is rejected:
empty output and one `E_CRC`, for any permutation table. -/
def Obligations.OneByteMutationIsRejected : Prop :=
  ∀ (s : State) (f : Frame) (k : Fin 47) (b : Byte),
    s.rom.IsPermutation → accepted s.rom f → b ≠ f[k.val] →
    ∃ t, exec (.decode (f.set k.val b)) s = .next t ∧ t.work.samples = [] ∧ t.trace = s.trace ++ [.crc]

/-! ### The unpacker -/

/-- 42_unpack.md section 1: the byte at the offset. The spec returns a value; that it goes into the transient named is the
model's choice (DESIGN CHOICE, log entry 5). -/
def Obligations.LdU8ReadsTheByte : Prop :=
  ∀ (s : State) (f : Frame) (a : Fin 47),
    exec (.ldU8 f a .received) s = .next { s with work := { s.work with received := f[a.val] } } ∧
    exec (.ldU8 f a .conf) s = .next { s with work := { s.work with conf := f[a.val] } }

/-- 42_unpack.md section 1: low byte first, unsigned, at any offset. The spec returns a value; that it goes into the
transient named is the model's choice (DESIGN CHOICE, log entry 5). -/
def Obligations.LdU16leReadsLittleEndian : Prop :=
  ∀ (s : State) (f : Frame) (a : Fin 46), ∃ h : Half,
    h.toNat = halfAt f a ∧
    h.extractLsb' 0 8 = f[a.val]'(by omega) ∧ h.extractLsb' 8 8 = f[a.val + 1]'(by omega) ∧
    exec (.ldU16le f a .sa) s = .next { s with work := { s.work with sa := h } } ∧
    exec (.ldU16le f a .ea) s = .next { s with work := { s.work with ea := h } } ∧
    exec (.ldU16le f a .dist) s = .next { s with work := { s.work with dist := h } }

/-! ### The angles -/

/-- 43_angle.md R151. -/
def Obligations.AngDiffIsSignedSpan : Prop :=
  ∀ (s : State) (sa ea : Half), ∃ t, exec (.angDiff sa ea) s = .next t ∧
    t = { s with work := { s.work with diff := t.work.diff } } ∧
    (sa.toNat ≤ ea.toNat → t.work.diff = (ea.toNat : Int) - sa.toNat ∧ 0 ≤ t.work.diff ∧ t.work.diff ≤ 65535) ∧
    (ea.toNat < sa.toNat → t.work.diff = 36000 - (sa.toNat : Int) + ea.toNat ∧
      -29535 ≤ t.work.diff ∧ t.work.diff ≤ 35999)

/-- 43_angle.md section 2: exact for every operand; with the span of an `ANG.DIFF` it is never negative (an inference that
the spec marks as its own, [derived: from rule R151]) nor above 1116874, point 0 is at the start angle and point 11 at
the end angle or one turn above it. -/
def Obligations.AngRawInterpolatesExactly : Prop :=
  (∀ (s : State) (sa : Half) (diff : Int) (i : Fin 12),
    exec (.angRaw sa diff i) s = .next { s with work := { s.work with nraw := 11 * (sa.toNat : Int) + i.val * diff } }) ∧
  (∀ (s u t : State) (sa ea : Half) (i : Fin 12),
    exec (.angDiff sa ea) s = .next u → exec (.angRaw sa u.work.diff i) u = .next t →
    0 ≤ t.work.nraw ∧ t.work.nraw ≤ 1116874 ∧
    (i = 0 → t.work.nraw = 11 * (sa.toNat : Int)) ∧
    (i = 11 → t.work.nraw = 11 * ((ea.toNat : Int) + if sa.toNat ≤ ea.toNat then 0 else 36000)))

/-- 43_angle.md R154: one conditional subtraction, `>=`, never repeated. -/
def Obligations.AngNormSubtractsOneTurnOnce : Prop :=
  ∀ (s : State) (nraw : Int),
    (396000 ≤ nraw → exec (.angNorm nraw) s = .next { s with work := { s.work with n := nraw - 396000 } }) ∧
    (nraw < 396000 → exec (.angNorm nraw) s = .next { s with work := { s.work with n := nraw } })

/-- 43_angle.md section 3 (widths): for every pair of fields and every point, the span fits 18 bits signed, the raw
numerator 21 bits unsigned and the normalized one 20 bits unsigned, at most 720874, so that nothing wraps. -/
def Obligations.AngleWidthsSuffice : Prop :=
  ∀ (sa ea : Half) (i : Fin 12),
    -(2 ^ 17 : Int) ≤ angleSpan sa ea ∧ angleSpan sa ea < 2 ^ 17 ∧
    0 ≤ angleRaw sa (angleSpan sa ea) i ∧ angleRaw sa (angleSpan sa ea) i < 2 ^ 21 ∧
    0 ≤ angleNorm (angleRaw sa (angleSpan sa ea) i) ∧ angleNorm (angleRaw sa (angleSpan sa ea) i) ≤ 720874

/-- 43_angle.md section 3: with both angle fields below 36000, every Sample of a frame has its angle in [0, 360)
degrees. -/
def Obligations.InRangeFieldsGiveInRangeAngles : Prop :=
  ∀ (s t : State) (f : Frame), halfAt f 4 < 36000 → halfAt f 42 < 36000 → exec (.decode f) s = .next t →
    ∀ x ∈ t.work.samples, 0 ≤ x.n ∧ x.n < 396000

/-- 43_angle.md section 3: with both angle fields below 36000 the raw numerators do not decrease along the points, and
there is one point from which, and only from which, a turn has been subtracted. -/
def Obligations.AnglesRiseButForOneWrap : Prop :=
  ∀ (sa ea : Half), sa.toNat < 36000 → ea.toNat < 36000 →
    (∀ i j : Fin 12, i ≤ j → angleRaw sa (angleSpan sa ea) i ≤ angleRaw sa (angleSpan sa ea) j) ∧
    ∃ k : Nat, k ≤ 12 ∧ ∀ i : Fin 12,
      angleNorm (angleRaw sa (angleSpan sa ea) i) =
        angleRaw sa (angleSpan sa ea) i - if k ≤ i.val then 396000 else 0

/-! ### The filter and the decoder -/

/-- 44_decode_emit.md R170: both comparisons strict and unsigned. -/
def Obligations.PtFiltKeepsStrictly : Prop :=
  ∀ (s : State) (dist : Half) (conf : Byte),
    (0 < dist.toNat ∧ 100 < conf.toNat →
      exec (.ptFilt dist conf) s = .next { s with work := { s.work with keep := true } }) ∧
    (¬ (0 < dist.toNat ∧ 100 < conf.toNat) →
      exec (.ptFilt dist conf) s = .next { s with work := { s.work with keep := false }, trace := s.trace ++ [.lowq] })

/-- 44_decode_emit.md R172: the sequence of operations computes the Samples of the frame and the drops, in every state,
and touches nothing but the transients and the event history. -/
def Obligations.DecodeYieldsSamplesOfFrame : Prop :=
  ∀ (s : State) (f : Frame), ∃ t, exec (.decode f) s = .next t ∧
    t.work.samples = output s.rom f ∧
    t = { s with work := t.work, trace := s.trace ++ drops s.rom f }

/-- 44_decode_emit.md R173 and R170 together: what `DECODE` returns is some of the frame's twelve points in ascending
index order, at most twelve, each with a distance that is not 0 and a confidence above 100, each with the angle of its
own index. -/
def Obligations.SamplesAreFilteredPointsInOrder : Prop :=
  ∀ (s t : State) (f : Frame), exec (.decode f) s = .next t →
    t.work.samples.Sublist ((List.finRange 12).map (sample f)) ∧ t.work.samples.length ≤ 12 ∧
    ∀ x ∈ t.work.samples, x.dist ≠ 0#16 ∧ 100 < x.conf.toNat

/-- 44_decode_emit.md R174: the result depends on the 47 bytes and the table and nothing else; running it again gives
the same. -/
def Obligations.DecodeIsPureAndIdempotent : Prop :=
  ∀ (s s' : State) (f : Frame), s.rom = s'.rom →
    ∃ t t' t'' : State, exec (.decode f) s = .next t ∧ exec (.decode f) s' = .next t' ∧ exec (.decode f) t = .next t'' ∧
      t.work = t'.work ∧ t''.work = t.work ∧
      ∃ l, t.trace = s.trace ++ l ∧ t'.trace = s'.trace ++ l ∧ t''.trace = t.trace ++ l

/-- 10_state.md section 1: every format-S operation completes in every state, neither reads nor writes the Framer's
state, and writes only the transients and the end of the event history. -/
def Obligations.DecoderOperationsLeaveFramerAlone : Prop :=
  ∀ (i : Instr) (s s' : State), isFormatS i = true → s'.rom = s.rom → s'.work = s.work →
    ∃ (t t' : State) (l : List Event), exec i s = .next t ∧ exec i s' = .next t' ∧ t'.work = t.work ∧
      t = { s with work := t.work, trace := s.trace ++ l } ∧ t' = { s' with work := t'.work, trace := s'.trace ++ l }

/-! ### The host operations -/

/-- 44_decode_emit.md section 3, the step of the block: PUSH completes in every well-formed state, for every byte, as
the selected operation; only `F.EMIT` has output, at most twelve Samples; the table and the pending items stand. -/
def Obligations.PushRunsSelectedOperation : Prop :=
  ∀ (s : State) (b : Byte), s.FramerWf → ∃ (op : FramerOp) (t : State) (l : List Sample),
    select s.sync s.cnt b = some op ∧ exec (.push b) s = .next t ∧ exec (op.instr b) s = .next t ∧
    t.out = s.out ++ l ∧ l.length ≤ 12 ∧ (l ≠ [] → op = .emit) ∧ t.rom = s.rom ∧ t.input = s.input

/-- 44_decode_emit.md R182. -/
def Obligations.NobyteIsTheIdentity : Prop := ∀ s : State, exec .nobyte s = .next s

/-- 70_reset_and_hazards.md section 1: Idle with an empty buffer from any state, well formed or not; no output, no
event; the table is unaffected, and so are the pending items and the transients (the model's choice, log entry 16). -/
def Obligations.ResetReturnsToIdleFromAnyState : Prop :=
  ∀ s : State, exec .reset s = .next { s with sync := false, cnt := 0#6, buf := [] }

/-- 30_encoding.md section 5 and section 1 (log entry 7): `FRAME` puts its 47 bytes, at the offsets of the frame layout,
before the pending items, one PUSH each, and changes nothing else. -/
def Obligations.FrameExpandsToItsBytes : Prop :=
  ∀ (s : State) (a : FrameArgs), ∃ f : Frame,
    exec (.frame a) s = .next { s with input := f.toList.map .push ++ s.input } ∧
    f[0] = 0x54#8 ∧ f[1] = 0x2C#8 ∧
    halfAt f 2 = a.spd.toNat ∧ halfAt f 4 = a.sa.toNat ∧ halfAt f 42 = a.ea.toNat ∧ halfAt f 44 = a.ts.toNat ∧
    (∀ i : Fin 12, distOf f i = a.pts[i].dist.toNat ∧ confOf f i = a.pts[i].conf) ∧
    (a.crc = .ok → accepted s.rom f) ∧
    (a.crc = .bad → f[46] = s.rom.crc8 (f.toList.take 46) ^^^ 0xFF#8) ∧
    (∀ k, a.crc = .byte k → f[46] = k)

/-- End to end: a `FRAME` with a correct checksum pending in Idle is, after its expansion and 47 steps, output as the
Samples of its arguments, the block Idle again; with `crc=bad` nothing is output. For `crc=` a given byte the output is
left out: only `ok` and `bad` are stated. That the expansion is a step of its own is the model's choice (log entry 7). -/
def Obligations.FrameInFrameOut : Prop :=
  ∀ (s : State) (a : FrameArgs) (rest : List HostItem), s.FramerWf → s.sync = false → s.input = .frame a :: rest →
    ∃ t, core.run 48 s = .next t ∧ t.sync = false ∧ t.cnt = 0#6 ∧ t.buf = [] ∧ t.input = rest ∧ t.rom = s.rom ∧
      (a.crc = .ok → t.out = s.out ++ argSamples a) ∧ (a.crc = .bad → t.out = s.out)

/-! ### Every instruction -/

/-- 10_state.md section 2: no operation writes the table. -/
def Obligations.NothingWritesTheTable : Prop := ∀ (i : Instr) (s t : State), exec i s = .next t → t.rom = s.rom

/-- 10_state.md section 2, 44_decode_emit.md section 3: what the ports delivered and the event history are only added to,
and no operation reads them (log entry 2). -/
def Obligations.NothingReadsOutputOrTrace : Prop :=
  ∀ (i : Instr) (s t : State) (o : List Sample) (tr : List Event), exec i s = .next t →
    ∃ (l : List Sample) (e : List Event), t.out = s.out ++ l ∧ t.trace = s.trace ++ e ∧
      exec i { s with out := o, trace := tr } = .next { t with out := o ++ l, trace := tr ++ e }

/-! ### Decoding and encoding -/

/-- 30_encoding.md sections 1 and 3: a few words written out from the spec: the six rows of the select, and the first
bytes of a `FRAME`. -/
def Obligations.SpecWordsDecodeAsWritten : Prop :=
  decodeByte false 0#6 [0b01010100#8] = .ok (.fSync 0x54#8, []) ∧
  decodeByte false 0#6 [0b00101100#8] = .ok (.fSkip 0x2C#8, []) ∧
  decodeByte true 1#6 [0b00101100#8] = .ok (.fLenok 0x2C#8, []) ∧
  decodeByte true 1#6 [0b01010100#8] = .ok (.fDesync 0x54#8, []) ∧
  decodeByte true 2#6 [0b01010100#8] = .ok (.fAppend 0x54#8, []) ∧
  decodeByte true 45#6 [0b00101100#8] = .ok (.fAppend 0x2C#8, []) ∧
  decodeByte true 46#6 [0b00000000#8] = .ok (.fEmit 0x00#8, []) ∧
  decodeFrame [0x54#8, 0x2C#8] = .reject .shortFrame ∧
  decodeFrame (List.replicate 47 0x54#8) = .reject .badVerlen ∧
  decodeFrame (List.replicate 47 0x2C#8) = .reject .badMarker

/-- Every well-formed format-B instruction, encoded, decodes to itself in every Framer state of its row. -/
def Obligations.FramerDecodeOfEncode : Prop :=
  ∀ (op : FramerOp) (b : Byte) (t : CrcTable) (sync : Bool) (cnt : BitVec 6) (rest : List Byte),
    (op.instr b).wf = true → rowOf op sync cnt.toNat →
    ∃ l, encode t (op.instr b) = some l ∧ decodeByte sync cnt (l ++ rest) = .ok (op.instr b, rest)

/-- A `FRAME`, encoded, decodes to its own arguments, the checksum as the byte it is, with every operand at every
value. -/
def Obligations.FrameDecodeOfEncode : Prop :=
  ∀ (t : CrcTable) (a : FrameArgs) (rest : List Byte),
    ∃ l, encode t (.frame a) = some l ∧
      decodeFrame (l ++ rest) = .ok ({ a with crc := .byte (a.crcByte t) }, rest)

/-- What decodes as a `FRAME` encodes back to the same 47 bytes: no bit of the layout is dropped. -/
def Obligations.FrameEncodeOfDecode : Prop :=
  ∀ (t : CrcTable) (l rest : List Byte) (a : FrameArgs), decodeFrame l = .ok (a, rest) → a.bytes t ++ rest = l

/-! ### One step at a time -/

/-- 70_reset_and_hazards.md section 3, "no ordering rules between operations beyond one step at a time" (the spec's own
inference): as many steps as there are bytes pending are the pushes of those bytes in order and nothing else; the items
behind them are neither read nor moved. -/
def Obligations.StepsRunPendingBytesInOrder : Prop :=
  ∀ (s : State) (l : List Byte) (rest : List HostItem), s.input = l.map .push ++ rest →
    core.run l.length s = pushAll l { s with input := rest }

/-- 70_reset_and_hazards.md section 3, "no required idle bytes between frames" (the spec's own inference): from Idle, two
frames whose 94 bytes are pending without a byte between them are both handed over, each as it stands in the input, and
both are output, the first before the second; after 94 steps the block is Idle and nothing else of the input is used. -/
def Obligations.BackToBackFramesNeedNoIdleBytes : Prop :=
  ∀ (s : State) (l m : List Byte) (rest : List HostItem), s.FramerWf → s.sync = false → l.length = 45 → m.length = 45 →
    s.input = ([0x54#8, 0x2C#8] ++ l ++ ([0x54#8, 0x2C#8] ++ m)).map .push ++ rest →
    ∃ (t : State) (f g : Frame), core.run 94 s = .next t ∧
      f.toList = [0x54#8, 0x2C#8] ++ l ∧ g.toList = [0x54#8, 0x2C#8] ++ m ∧
      t.out = s.out ++ output s.rom f ++ output s.rom g ∧
      t.trace = s.trace ++ emitEvents s.rom f ++ emitEvents s.rom g ∧
      t.sync = false ∧ t.cnt = 0#6 ∧ t.buf = [] ∧ t.rom = s.rom ∧ t.input = rest

/-- 10_state.md section 1, "There is nothing else", and 60_exceptions.md section 2, no device and no register beside the
block: what a byte does depends on `sync`, `cnt`, `buf`, the table and the byte alone. From two states that agree on those
and differ in whatever else there is, its step answers the same Framer state, outputs the same Samples and records the
same events. -/
def Obligations.ByteEffectDependsOnTripleAndTable : Prop :=
  ∀ (s s' t : State) (b : Byte), s'.sync = s.sync → s'.cnt = s.cnt → s'.buf = s.buf → s'.rom = s.rom →
    exec (.push b) s = .next t →
    ∃ (t' : State) (l : List Sample) (e : List Event), exec (.push b) s' = .next t' ∧
      t'.sync = t.sync ∧ t'.cnt = t.cnt ∧ t'.buf = t.buf ∧
      t.out = s.out ++ l ∧ t'.out = s'.out ++ l ∧ t.trace = s.trace ++ e ∧ t'.trace = s'.trace ++ e ∧
      t.input = s.input ∧ t'.input = s'.input ∧ t.rom = s.rom ∧ t'.rom = s'.rom
end

