-- ==== Sys2Proof/Laws/State.lean ====
section
/-! SUPPORT. What each update of the state does to each field: no later proof unfolds a record update. -/

namespace Sys2Proof.Machine

variable (s : State)

@[simp] theorem State.setFramer_sync (b : Bool) (c : BitVec 6) (m : Memory) : (s.setFramer b c m).sync = b := rfl
@[simp] theorem State.setFramer_cnt (b : Bool) (c : BitVec 6) (m : Memory) : (s.setFramer b c m).cnt = c := rfl
@[simp] theorem State.setFramer_buf (b : Bool) (c : BitVec 6) (m : Memory) : (s.setFramer b c m).buf = m := rfl
@[simp] theorem State.setFramer_rom (b : Bool) (c : BitVec 6) (m : Memory) : (s.setFramer b c m).rom = s.rom := rfl
@[simp] theorem State.setFramer_work (b : Bool) (c : BitVec 6) (m : Memory) : (s.setFramer b c m).work = s.work := rfl
@[simp] theorem State.setFramer_input (b : Bool) (c : BitVec 6) (m : Memory) : (s.setFramer b c m).input = s.input := rfl
@[simp] theorem State.setFramer_out (b : Bool) (c : BitVec 6) (m : Memory) : (s.setFramer b c m).out = s.out := rfl
@[simp] theorem State.setFramer_trace (b : Bool) (c : BitVec 6) (m : Memory) : (s.setFramer b c m).trace = s.trace := rfl

@[simp] theorem State.toIdle_sync : (s.toIdle).sync = false := rfl
@[simp] theorem State.toIdle_cnt : (s.toIdle).cnt = 0#6 := rfl
@[simp] theorem State.toIdle_buf : (s.toIdle).buf = [] := rfl
@[simp] theorem State.toIdle_rom : (s.toIdle).rom = s.rom := rfl
@[simp] theorem State.toIdle_work : (s.toIdle).work = s.work := rfl
@[simp] theorem State.toIdle_input : (s.toIdle).input = s.input := rfl
@[simp] theorem State.toIdle_out : (s.toIdle).out = s.out := rfl
@[simp] theorem State.toIdle_trace : (s.toIdle).trace = s.trace := rfl

@[simp] theorem State.setWork_sync (w : Work) : (s.setWork w).sync = s.sync := rfl
@[simp] theorem State.setWork_cnt (w : Work) : (s.setWork w).cnt = s.cnt := rfl
@[simp] theorem State.setWork_buf (w : Work) : (s.setWork w).buf = s.buf := rfl
@[simp] theorem State.setWork_rom (w : Work) : (s.setWork w).rom = s.rom := rfl
@[simp] theorem State.setWork_work (w : Work) : (s.setWork w).work = w := rfl
@[simp] theorem State.setWork_input (w : Work) : (s.setWork w).input = s.input := rfl
@[simp] theorem State.setWork_out (w : Work) : (s.setWork w).out = s.out := rfl
@[simp] theorem State.setWork_trace (w : Work) : (s.setWork w).trace = s.trace := rfl

@[simp] theorem State.record_sync (e : Event) : (s.record e).sync = s.sync := rfl
@[simp] theorem State.record_cnt (e : Event) : (s.record e).cnt = s.cnt := rfl
@[simp] theorem State.record_buf (e : Event) : (s.record e).buf = s.buf := rfl
@[simp] theorem State.record_rom (e : Event) : (s.record e).rom = s.rom := rfl
@[simp] theorem State.record_work (e : Event) : (s.record e).work = s.work := rfl
@[simp] theorem State.record_input (e : Event) : (s.record e).input = s.input := rfl
@[simp] theorem State.record_out (e : Event) : (s.record e).out = s.out := rfl
@[simp] theorem State.record_trace (e : Event) : (s.record e).trace = s.trace ++ [e] := rfl

@[simp] theorem State.drop_sync (e : Event) : (s.drop e).sync = s.sync := rfl
@[simp] theorem State.drop_cnt (e : Event) : (s.drop e).cnt = s.cnt := rfl
@[simp] theorem State.drop_buf (e : Event) : (s.drop e).buf = s.buf := rfl
@[simp] theorem State.drop_rom (e : Event) : (s.drop e).rom = s.rom := rfl
@[simp] theorem State.drop_work (e : Event) : (s.drop e).work = s.work := rfl
@[simp] theorem State.drop_input (e : Event) : (s.drop e).input = s.input := rfl
@[simp] theorem State.drop_out (e : Event) : (s.drop e).out = s.out := rfl
@[simp] theorem State.drop_trace (e : Event) : (s.drop e).trace = s.trace ++ [e] := rfl

@[simp] theorem State.deliver_sync (l : List Sample) : (s.deliver l).sync = s.sync := rfl
@[simp] theorem State.deliver_cnt (l : List Sample) : (s.deliver l).cnt = s.cnt := rfl
@[simp] theorem State.deliver_buf (l : List Sample) : (s.deliver l).buf = s.buf := rfl
@[simp] theorem State.deliver_rom (l : List Sample) : (s.deliver l).rom = s.rom := rfl
@[simp] theorem State.deliver_work (l : List Sample) : (s.deliver l).work = s.work := rfl
@[simp] theorem State.deliver_input (l : List Sample) : (s.deliver l).input = s.input := rfl
@[simp] theorem State.deliver_out (l : List Sample) : (s.deliver l).out = s.out ++ l := rfl
@[simp] theorem State.deliver_trace (l : List Sample) : (s.deliver l).trace = s.trace := rfl

@[simp] theorem State.setInput_sync (l : List HostItem) : (s.setInput l).sync = s.sync := rfl
@[simp] theorem State.setInput_cnt (l : List HostItem) : (s.setInput l).cnt = s.cnt := rfl
@[simp] theorem State.setInput_buf (l : List HostItem) : (s.setInput l).buf = s.buf := rfl
@[simp] theorem State.setInput_rom (l : List HostItem) : (s.setInput l).rom = s.rom := rfl
@[simp] theorem State.setInput_work (l : List HostItem) : (s.setInput l).work = s.work := rfl
@[simp] theorem State.setInput_input (l : List HostItem) : (s.setInput l).input = l := rfl
@[simp] theorem State.setInput_out (l : List HostItem) : (s.setInput l).out = s.out := rfl
@[simp] theorem State.setInput_trace (l : List HostItem) : (s.setInput l).trace = s.trace := rfl

@[simp] theorem State.offerBytes_sync (l : List Byte) : (s.offerBytes l).sync = s.sync := rfl
@[simp] theorem State.offerBytes_cnt (l : List Byte) : (s.offerBytes l).cnt = s.cnt := rfl
@[simp] theorem State.offerBytes_buf (l : List Byte) : (s.offerBytes l).buf = s.buf := rfl
@[simp] theorem State.offerBytes_rom (l : List Byte) : (s.offerBytes l).rom = s.rom := rfl
@[simp] theorem State.offerBytes_work (l : List Byte) : (s.offerBytes l).work = s.work := rfl
@[simp] theorem State.offerBytes_input (l : List Byte) : (s.offerBytes l).input = l.map .push ++ s.input := rfl
@[simp] theorem State.offerBytes_out (l : List Byte) : (s.offerBytes l).out = s.out := rfl
@[simp] theorem State.offerBytes_trace (l : List Byte) : (s.offerBytes l).trace = s.trace := rfl

@[simp] theorem State.offerItem_sync (i : HostItem) : (s.offerItem i).sync = s.sync := rfl
@[simp] theorem State.offerItem_cnt (i : HostItem) : (s.offerItem i).cnt = s.cnt := rfl
@[simp] theorem State.offerItem_buf (i : HostItem) : (s.offerItem i).buf = s.buf := rfl
@[simp] theorem State.offerItem_rom (i : HostItem) : (s.offerItem i).rom = s.rom := rfl
@[simp] theorem State.offerItem_work (i : HostItem) : (s.offerItem i).work = s.work := rfl
@[simp] theorem State.offerItem_input (i : HostItem) : (s.offerItem i).input = i :: s.input := rfl
@[simp] theorem State.offerItem_out (i : HostItem) : (s.offerItem i).out = s.out := rfl
@[simp] theorem State.offerItem_trace (i : HostItem) : (s.offerItem i).trace = s.trace := rfl

end Sys2Proof.Machine
end

