-- ==== Sys2Proof/Laws/Memory.lean ====
section
/-! SUPPORT. The laws of BUF: a read after a write, the canonical form kept, and the append at `cnt`. -/

namespace Sys2Proof.Machine

@[simp] theorem Memory.read_nil (a : Nat) : Memory.read [] a = none := rfl

theorem Memory.read_cons (c : Host.Cell) (m : Memory) (a : Nat) :
    Memory.read (c :: m) a = if a = c.1 then some c.2 else Memory.read m a := by
  obtain ⟨k, v⟩ := c
  by_cases h : a = k
  · simp [Memory.read, List.lookup, h]
  · have hb : (a == k) = false := by simpa using h
    simp [Memory.read, List.lookup, h, hb]

theorem Memory.read_write_same (m : Memory) (a : Nat) (v : Byte) : (Memory.write m a v).read a = some v := by
  induction m with
  | nil => simp [Memory.write, Memory.read_cons]
  | cons c m ih =>
    simp only [Memory.write]
    split
    · simp [Memory.read_cons]
    · split
      · simp [Memory.read_cons]
      · next h => rw [Memory.read_cons, if_neg h, ih]

theorem Memory.read_write_other (m : Memory) {a k : Nat} (v : Byte) (h : k ≠ a) :
    (Memory.write m a v).read k = m.read k := by
  induction m with
  | nil => simp [Memory.write, Memory.read_cons, h]
  | cons c m ih =>
    simp only [Memory.write]
    split
    · rw [Memory.read_cons, if_neg h]
    · split
      · next hc => rw [Memory.read_cons, if_neg h, Memory.read_cons, if_neg (hc ▸ h)]
      · rw [Memory.read_cons, ih, Memory.read_cons]

theorem Memory.mem_write_keys (m : Memory) (a : Nat) (v : Byte) (k : Nat) :
    k ∈ (Memory.write m a v).map Prod.fst ↔ k = a ∨ k ∈ m.map Prod.fst := by
  induction m with
  | nil => simp [Memory.write]
  | cons c m ih =>
    simp only [Memory.write]
    split
    · simp
    · split
      · next hc => subst hc; simp
      · rw [List.map_cons, List.mem_cons, ih, List.map_cons, List.mem_cons]
        exact or_left_comm

theorem Memory.write_keys_rising (m : Memory) (a : Nat) (v : Byte) (h : (m.map Prod.fst).Pairwise (· < ·)) :
    ((Memory.write m a v).map Prod.fst).Pairwise (· < ·) := by
  induction m with
  | nil => simp [Memory.write]
  | cons c m ih =>
    rw [List.map_cons, List.pairwise_cons] at h
    simp only [Memory.write]
    split
    · next hlt =>
      simp only [List.map_cons, List.pairwise_cons, List.mem_cons]
      refine ⟨?_, h⟩
      rintro k (rfl | hk)
      · exact hlt
      · exact Nat.lt_trans hlt (h.1 k hk)
    · split
      · next heq => subst heq; rw [List.map_cons, List.pairwise_cons]; exact h
      · next hlt hne =>
        rw [List.map_cons, List.pairwise_cons]
        refine ⟨fun k hk => ?_, ih h.2⟩
        rcases (Memory.mem_write_keys m a v k).mp hk with rfl | hk
        · omega
        · exact h.1 k hk

/-- A write inside BUF keeps the canonical form. -/
theorem Memory.write_wf {m : Memory} {a : Nat} (v : Byte) (ha : a < Config.frameLen) (h : m.wf) :
    (Memory.write m a v).wf := by
  refine ⟨Memory.write_keys_rising m a v h.1, fun k hk => ?_⟩
  rcases (Memory.mem_write_keys m a v k).mp hk with rfl | hk
  · exact ha
  · exact h.2 k hk

@[simp] theorem Memory.nil_wf : Memory.wf [] := by simp [Memory.wf]

/-- A write above every listed offset appends one cell. -/
theorem Memory.write_above (m : Memory) (a : Nat) (v : Byte) (h : ∀ k ∈ m.map Prod.fst, k < a) :
    Memory.write m a v = m ++ [(a, v)] := by
  induction m with
  | nil => rfl
  | cons c m ih =>
    have hc : c.1 < a := h c.1 (by simp)
    rw [Memory.write, if_neg (by omega), if_neg (by omega), ih fun k hk => h k (by simp [hk]), List.cons_append]

/-- The append at the cursor: the offsets stay the first ones (10_state.md R24 (d)). -/
theorem Memory.write_at_cursor {m : Memory} {n : Nat} (v : Byte) (h : m.map Prod.fst = List.range n) :
    Memory.write m n v = m ++ [(n, v)] :=
  Memory.write_above m n v fun k hk => by rw [h] at hk; exact List.mem_range.mp hk

theorem Memory.keys_after_append {m : Memory} {n : Nat} (v : Byte) (h : m.map Prod.fst = List.range n) :
    (Memory.write m n v).map Prod.fst = List.range (n + 1) := by
  rw [Memory.write_at_cursor v h, List.map_append, h, List.range_succ]; rfl

theorem Memory.bytes_after_append {m : Memory} {n : Nat} (v : Byte) (h : m.map Prod.fst = List.range n) :
    (Memory.write m n v).bytes = m.bytes ++ [v] := by
  rw [Memory.write_at_cursor v h]; simp [Memory.bytes]

theorem Memory.bytes_length (m : Memory) : m.bytes.length = (m.map Prod.fst).length := by simp [Memory.bytes]

end Sys2Proof.Machine
end

