-- ==== Sys2Proof/Laws/Ops.lean ====
section
/-! SUPPORT. One lemma for each shared operation of the machine: everything it can do. -/

namespace Sys2Proof.Machine

/-- A format-B operation answers a next state exactly where it is selected, and then what its effect answers. -/
theorem whenSelected_eq_next_iff {op : FramerOp} {b : Byte} {s t : State} {o : Host.Outcome State Fault Refusal} :
    whenSelected op b s o = .next t ↔ s.FramerWf ∧ select s.sync s.cnt b = some op ∧ o = .next t := by
  unfold whenSelected
  split
  · next h => split
              · next hs => exact ⟨fun ho => ⟨h, hs, ho⟩, fun ho => ho.2.2⟩
              · next hs => exact ⟨fun ho => (by cases ho), fun ho => absurd ho.2.1 hs⟩
  · next h => exact ⟨fun ho => (by cases ho), fun ho => absurd ho.1 h⟩

theorem whenSelected_selected {op : FramerOp} {b : Byte} {s : State} {o : Host.Outcome State Fault Refusal}
    (hw : s.FramerWf) (hs : select s.sync s.cnt b = some op) : whenSelected op b s o = o := by
  unfold whenSelected
  rw [if_pos hw, if_pos hs]

theorem whenSelected_other {op op' : FramerOp} {b : Byte} {s : State} {o : Host.Outcome State Fault Refusal}
    (hw : s.FramerWf) (hs : select s.sync s.cnt b = some op') (hne : op' ≠ op) :
    whenSelected op b s o = .refused .notSelected := by
  unfold whenSelected
  rw [if_pos hw, if_neg (by rw [hs]; simpa using hne)]

theorem whenSelected_illFormed {op : FramerOp} {b : Byte} {s : State} {o : Host.Outcome State Fault Refusal}
    (hw : ¬ s.FramerWf) : whenSelected op b s o = .refused .illFormedFramerState := by
  unfold whenSelected
  rw [if_neg hw]

@[simp] theorem State.fetch_nil {s : State} (h : s.input = []) : s.fetch = (.nobyte, s) := by
  unfold State.fetch; rw [h]

theorem State.fetch_cons {s : State} {item : HostItem} {rest : List HostItem} (h : s.input = item :: rest) :
    s.fetch = (item.instr, s.setInput rest) := by
  unfold State.fetch; rw [h]

/-- What the format-S operations write: the transients, and events at the end of the history. -/
structure OnlyWork (s t : State) : Prop where
  sync : t.sync = s.sync
  cnt : t.cnt = s.cnt
  buf : t.buf = s.buf
  rom : t.rom = s.rom
  input : t.input = s.input
  out : t.out = s.out
  trace : s.trace <+: t.trace

theorem OnlyWork.refl (s : State) : OnlyWork s s := ⟨rfl, rfl, rfl, rfl, rfl, rfl, List.prefix_rfl⟩

theorem OnlyWork.trans {s t u : State} (h : OnlyWork s t) (k : OnlyWork t u) : OnlyWork s u :=
  ⟨k.sync.trans h.sync, k.cnt.trans h.cnt, k.buf.trans h.buf, k.rom.trans h.rom, k.input.trans h.input,
    k.out.trans h.out, h.trace.trans k.trace⟩

theorem OnlyWork.setWork (s : State) (w : Work) : OnlyWork s (s.setWork w) :=
  ⟨rfl, rfl, rfl, rfl, rfl, rfl, List.prefix_rfl⟩

theorem OnlyWork.drop (s : State) (e : Event) : OnlyWork s (s.drop e) :=
  ⟨rfl, rfl, rfl, rfl, rfl, rfl, List.prefix_append _ _⟩

theorem OnlyWork.foldl {α : Type} {g : State → α → State} (hg : ∀ s x, OnlyWork s (g s x)) (l : List α) (s : State) :
    OnlyWork s (l.foldl g s) := by
  induction l generalizing s with
  | nil => exact OnlyWork.refl s
  | cons x l ih => exact (hg s x).trans (ih (g s x))

theorem runCrcUpd_onlyWork (acc b : Byte) (s : State) : OnlyWork s (runCrcUpd acc b s) := OnlyWork.setWork _ _

theorem runCrcCalc_onlyWork (m : List Byte) (s : State) : OnlyWork s (runCrcCalc m s) :=
  (OnlyWork.setWork _ _).trans (OnlyWork.foldl (fun t b => runCrcUpd_onlyWork t.work.acc b t) m _)

theorem runCrcChk_onlyWork (c r : Byte) (s : State) : OnlyWork s (runCrcChk c r s) := by
  unfold runCrcChk
  split
  · exact OnlyWork.setWork _ _
  · exact (OnlyWork.setWork _ _).trans (OnlyWork.drop _ _)

theorem runLdU8_onlyWork (f : Frame) (a : Fin 47) (d : ByteField) (s : State) : OnlyWork s (runLdU8 f a d s) :=
  OnlyWork.setWork _ _

theorem runLdU16le_onlyWork (f : Frame) (a : Fin 46) (d : HalfField) (s : State) : OnlyWork s (runLdU16le f a d s) :=
  OnlyWork.setWork _ _

theorem runAngDiff_onlyWork (sa ea : Half) (s : State) : OnlyWork s (runAngDiff sa ea s) := OnlyWork.setWork _ _

theorem runAngRaw_onlyWork (sa : Half) (diff : Int) (i : Fin 12) (s : State) : OnlyWork s (runAngRaw sa diff i s) :=
  OnlyWork.setWork _ _

theorem runAngNorm_onlyWork (nraw : Int) (s : State) : OnlyWork s (runAngNorm nraw s) := OnlyWork.setWork _ _

theorem runPtFilt_onlyWork (d : Half) (c : Byte) (s : State) : OnlyWork s (runPtFilt d c s) := by
  unfold runPtFilt
  split
  · exact OnlyWork.setWork _ _
  · exact (OnlyWork.setWork _ _).trans (OnlyWork.drop _ _)

theorem emitIfKept_onlyWork (s : State) : OnlyWork s (emitIfKept s) := by
  unfold emitIfKept
  split
  · exact OnlyWork.setWork _ _
  · exact OnlyWork.refl s

theorem runPoint_onlyWork (f : Frame) (s : State) (i : Fin 12) : OnlyWork s (runPoint f s i) :=
  (((((runLdU16le_onlyWork f _ _ s).trans (runLdU8_onlyWork f _ _ _)).trans (runAngRaw_onlyWork _ _ _ _)).trans
    (runAngNorm_onlyWork _ _)).trans (runPtFilt_onlyWork _ _ _)).trans (emitIfKept_onlyWork _)

theorem runCheck_onlyWork (f : Frame) (s : State) : OnlyWork s (runCheck f s) :=
  (((OnlyWork.setWork s Work.fresh).trans (runCrcCalc_onlyWork _ _)).trans (runLdU8_onlyWork f _ _ _)).trans
    (runCrcChk_onlyWork _ _ _)

theorem runSpan_onlyWork (f : Frame) (s : State) : OnlyWork s (runSpan f s) :=
  ((runLdU16le_onlyWork f _ _ s).trans (runLdU16le_onlyWork f _ _ _)).trans (runAngDiff_onlyWork _ _ _)

/-- `DECODE` reads no Framer state and writes none (44_decode_emit.md R172). -/
theorem runDecode_onlyWork (f : Frame) (s : State) : OnlyWork s (runDecode f s) := by
  unfold runDecode
  simp only
  split
  · exact (runCheck_onlyWork f s).trans ((runSpan_onlyWork f _).trans (OnlyWork.foldl (runPoint_onlyWork f) _ _))
  · exact runCheck_onlyWork f s

/-- The accumulator after `CRC.CALC` is `CRC8`, and no other transient moves. -/
theorem runCrcCalc_work (m : List Byte) (s : State) :
    (runCrcCalc m s).work = { s.work with acc := s.rom.crc8 m } := by
  have key : ∀ (l : List Byte) (t : State),
      (l.foldl (fun t b => runCrcUpd t.work.acc b t) t).work =
        { t.work with acc := l.foldl t.rom.update t.work.acc } := by
    intro l
    induction l with
    | nil => intro t; rfl
    | cons b l ih => intro t; rw [List.foldl_cons, ih]; rfl
  exact key m _

theorem Frame.ofBytes?_eq_some {l : List Byte} {f : Frame} : Frame.ofBytes? l = some f ↔ l = f.toList := by
  unfold Frame.ofBytes?
  constructor
  · intro h
    split at h
    · cases h; rfl
    · cases h
  · rintro rfl
    rw [dif_pos (by simp)]
    rfl

end Sys2Proof.Machine
end

