-- ==== Sys2Proof/Laws/Decoder.lean ====
section
/-! SUPPORT. What each stage of the `DECODE` sequence leaves in the transients and in the event history. -/

namespace Sys2Proof.Machine

/-- The kept Sample of point `i`, if it passes the filter, with the angle from the start angle and span given. -/
def pointSamples (f : Frame) (sa : Half) (diff : Int) (i : Fin 12) : List Sample :=
  if keepPoint (f.u16le (distOffset i)) (f.u8 (confOffset i)) then
    [⟨angleNorm (angleRaw sa diff i), f.u16le (distOffset i), f.u8 (confOffset i)⟩]
  else []

/-- The drop of point `i`, if it does not pass the filter. -/
def pointDrops (f : Frame) (i : Fin 12) : List Event :=
  if keepPoint (f.u16le (distOffset i)) (f.u8 (confOffset i)) then [] else [.lowq]

theorem runCrcCalc_trace (m : List Byte) (s : State) : (runCrcCalc m s).trace = s.trace := by
  have key : ∀ (l : List Byte) (t : State), (l.foldl (fun t b => runCrcUpd t.work.acc b t) t).trace = t.trace := by
    intro l
    induction l with
    | nil => intro t; rfl
    | cons b l ih => intro t; rw [List.foldl_cons, ih]; rfl
  exact key m _

/-- Steps 1 and 2: the outcome of the checksum compare; no Sample yet. -/
theorem runCheck_spec (f : Frame) (s : State) :
    (runCheck f s).work.crcOk = crcMatches (s.rom.crc8 f.covered) (f.u8 crcOffset) ∧
    (runCheck f s).work.samples = [] ∧
    (runCheck f s).trace =
      s.trace ++ if crcMatches (s.rom.crc8 f.covered) (f.u8 crcOffset) then [] else [.crc] := by
  have hw : (runCrcCalc f.covered (s.setWork Work.fresh)).work = { Work.fresh with acc := s.rom.crc8 f.covered } :=
    runCrcCalc_work _ _
  have htr : (runCrcCalc f.covered (s.setWork Work.fresh)).trace = s.trace := runCrcCalc_trace _ _
  unfold runCheck
  simp only [runLdU8, Work.setByte, State.setWork_work, hw, runCrcChk]
  split <;> simp_all [Work.fresh]

theorem runPtFilt_work (d : Half) (c : Byte) (s : State) :
    (runPtFilt d c s).work = { s.work with keep := keepPoint d c } := by
  unfold runPtFilt
  split <;> simp_all

theorem runPtFilt_trace (d : Half) (c : Byte) (s : State) :
    (runPtFilt d c s).trace = s.trace ++ if keepPoint d c then [] else [.lowq] := by
  unfold runPtFilt
  split <;> simp_all

theorem emitIfKept_work (s : State) :
    (emitIfKept s).work = { s.work with
      samples := s.work.samples ++ if s.work.keep then [⟨s.work.n, s.work.dist, s.work.conf⟩] else [] } := by
  unfold emitIfKept
  split
  · simp_all
  · next h =>
    rw [Bool.not_eq_true] at h
    simp only [h, List.append_nil]
    rw [← h]

theorem emitIfKept_trace (s : State) : (emitIfKept s).trace = s.trace := by
  unfold emitIfKept
  split <;> rfl

/-- One turn of the loop: the span stands, one point is judged. -/
theorem runPoint_spec (f : Frame) (s : State) (i : Fin 12) :
    (runPoint f s i).work.sa = s.work.sa ∧ (runPoint f s i).work.diff = s.work.diff ∧
    (runPoint f s i).work.samples = s.work.samples ++ pointSamples f s.work.sa s.work.diff i ∧
    (runPoint f s i).trace = s.trace ++ pointDrops f i := by
  simp only [runPoint, emitIfKept_work, emitIfKept_trace, runPtFilt_work, runPtFilt_trace, runLdU16le, runLdU8,
    runAngRaw, runAngNorm, Work.setHalf, Work.setByte, State.setWork_work, State.setWork_trace, pointSamples, pointDrops]
  exact ⟨trivial, trivial, trivial, trivial⟩

/-- The whole loop: the points in the order taken. -/
theorem runPoints_spec (f : Frame) (l : List (Fin 12)) (s : State) :
    (l.foldl (runPoint f) s).work.samples = s.work.samples ++ l.flatMap (pointSamples f s.work.sa s.work.diff) ∧
    (l.foldl (runPoint f) s).trace = s.trace ++ l.flatMap (pointDrops f) := by
  induction l generalizing s with
  | nil => simp
  | cons i l ih =>
    obtain ⟨hsa, hdiff, hsam, htr⟩ := runPoint_spec f s i
    obtain ⟨h1, h2⟩ := ih (runPoint f s i)
    rw [List.foldl_cons, h1, h2, hsa, hdiff, hsam, htr]
    simp

end Sys2Proof.Machine
end

