-- ==== Sys2Proof/Laws/Operands.lean ====
section
/-! SUPPORT. The laws of operand assembly and of the angle of a two-byte field. -/

namespace Sys2Proof

@[simp] theorem le16_toNat (lo hi : Byte) : (le16 lo hi).toNat = lo.toNat + 256 * hi.toNat := by
  have hl := lo.isLt
  have hh := hi.isLt
  rw [le16, BitVec.toNat_ofNat]
  omega

theorem loByte_toNat (h : Half) : (loByte h).toNat = h.toNat % 256 := by
  simp [loByte, BitVec.extractLsb'_toNat]

theorem hiByte_toNat (h : Half) : (hiByte h).toNat = h.toNat / 256 := by
  have := h.isLt
  rw [hiByte, BitVec.extractLsb'_toNat, Nat.shiftRight_eq_div_pow]
  omega

@[simp] theorem loByte_le16 (lo hi : Byte) : loByte (le16 lo hi) = lo := by
  apply BitVec.eq_of_toNat_eq
  have := lo.isLt
  rw [loByte_toNat, le16_toNat]
  omega

@[simp] theorem hiByte_le16 (lo hi : Byte) : hiByte (le16 lo hi) = hi := by
  apply BitVec.eq_of_toNat_eq
  have := lo.isLt
  rw [hiByte_toNat, le16_toNat]
  omega

@[simp] theorem le16_loByte_hiByte (h : Half) : le16 (loByte h) (hiByte h) = h := by
  apply BitVec.eq_of_toNat_eq
  rw [le16_toNat, loByte_toNat, hiByte_toNat]
  omega

theorem FrameArgs.body_length (a : FrameArgs) : a.body.length = 46 := by
  have hp : (a.pts.toList.flatMap Point.bytes).length = 36 := by
    have h3 : a.pts.toList.map (fun p => p.bytes.length) = List.replicate 12 3 := by
      rw [show (fun p : Point => p.bytes.length) = fun _ => 3 from rfl, List.map_const']
      simp
    rw [List.length_flatMap, h3]
    rfl
  simp [FrameArgs.body, hp]

theorem FrameArgs.bytes_length (t : CrcTable) (a : FrameArgs) : (a.bytes t).length = 47 := by
  rw [FrameArgs.bytes, List.length_append, FrameArgs.body_length]
  rfl

end Sys2Proof
end

