-- ==== Sys2Proof/Laws/PerInstr.lean ====
section
/-! SUPPORT. Facts about every instruction as syntax, one lemma per constructor. -/

namespace Sys2Proof.Laws.EncodingLength

/-- An instruction that has an encoding is one byte long, or, as a `FRAME`, 47 bytes (30_encoding.md R60). -/
def Statement (i : Instr) : Prop :=
  ∀ (t : CrcTable) (l : List Byte), encode t i = some l →
    l.length = match i with | .frame _ => 47 | _ => 1

theorem fSkip (b : Byte) : Statement (.fSkip b) := by rintro t l ⟨⟩; rfl
theorem fSync (b : Byte) : Statement (.fSync b) := by rintro t l ⟨⟩; rfl
theorem fLenok (b : Byte) : Statement (.fLenok b) := by rintro t l ⟨⟩; rfl
theorem fDesync (b : Byte) : Statement (.fDesync b) := by rintro t l ⟨⟩; rfl
theorem fAppend (b : Byte) : Statement (.fAppend b) := by rintro t l ⟨⟩; rfl
theorem fEmit (b : Byte) : Statement (.fEmit b) := by rintro t l ⟨⟩; rfl
theorem crcUpd (acc b : Byte) : Statement (.crcUpd acc b) := by rintro t l ⟨⟩
theorem crcCalc (m : List Byte) : Statement (.crcCalc m) := by rintro t l ⟨⟩
theorem crcChk (computed received : Byte) : Statement (.crcChk computed received) := by rintro t l ⟨⟩
theorem ldU8 (f : Frame) (a : Fin 47) (d : ByteField) : Statement (.ldU8 f a d) := by rintro t l ⟨⟩
theorem ldU16le (f : Frame) (a : Fin 46) (d : HalfField) : Statement (.ldU16le f a d) := by rintro t l ⟨⟩
theorem angDiff (sa ea : Half) : Statement (.angDiff sa ea) := by rintro t l ⟨⟩
theorem angRaw (sa : Half) (diff : Int) (i : Fin 12) : Statement (.angRaw sa diff i) := by rintro t l ⟨⟩
theorem angNorm (nraw : Int) : Statement (.angNorm nraw) := by rintro t l ⟨⟩
theorem ptFilt (dist : Half) (conf : Byte) : Statement (.ptFilt dist conf) := by rintro t l ⟨⟩
theorem decode (f : Frame) : Statement (.decode f) := by rintro t l ⟨⟩
theorem push (b : Byte) : Statement (.push b) := by rintro t l ⟨⟩
theorem nobyte : Statement .nobyte := by rintro t l ⟨⟩
theorem reset : Statement .reset := by rintro t l ⟨⟩
theorem frame (args : FrameArgs) : Statement (.frame args) := by rintro t l ⟨⟩; exact FrameArgs.bytes_length t args

end Sys2Proof.Laws.EncodingLength
end

