-- ==== Sys2Proof/Laws/Select.lean ====
section
/-! SUPPORT. The operation select (30_encoding.md R75), one lemma per Framer state, and its totality on well-formed
states. -/

namespace Sys2Proof.Machine

theorem select_idle (b : Byte) : select false 0#6 b = some (if isMarker b then .sync else .skip) := by
  cases h : isMarker b <;> simp [select, h]

theorem select_second (b : Byte) : select true 1#6 b = some (if isVerlen b then .lenok else .desync) := by
  cases h : isVerlen b <;> simp [select, h]

theorem select_body {cnt : BitVec 6} (h : 2 ≤ cnt.toNat ∧ cnt.toNat ≤ 45) (b : Byte) :
    select true cnt b = some .append := by
  have h1 : cnt ≠ 1#6 := by rintro rfl; simp at h
  simp [select, h1, h]

theorem select_last (b : Byte) : select true 46#6 b = some .emit := by
  simp [select]

/-- A well-formed state is in one of the four Framer situations of R75. -/
theorem State.FramerWf.cases {s : State} (h : s.FramerWf) :
    (s.sync = false ∧ s.cnt = 0#6) ∨ (s.sync = true ∧ s.cnt = 1#6) ∨
    (s.sync = true ∧ 2 ≤ s.cnt.toNat ∧ s.cnt.toNat ≤ 45) ∨ (s.sync = true ∧ s.cnt = 46#6) := by
  obtain ⟨ha, hb, -, -⟩ := h
  cases hs : s.sync with
  | false => exact .inl ⟨rfl, ha.mp hs⟩
  | true =>
    obtain ⟨h1, h46, -⟩ := hb hs
    by_cases h1' : s.cnt.toNat = 1
    · exact .inr (.inl ⟨rfl, BitVec.eq_of_toNat_eq h1'⟩)
    · by_cases h46' : s.cnt.toNat = 46
      · exact .inr (.inr (.inr ⟨rfl, BitVec.eq_of_toNat_eq h46'⟩))
      · exact .inr (.inr (.inl ⟨rfl, by omega, by omega⟩))

/-- What is selected is well formed. -/
theorem select_wf {sync : Bool} {cnt : BitVec 6} {b : Byte} {op : FramerOp} (h : select sync cnt b = some op) :
    (op.instr b).wf = true := by
  cases sync with
  | false =>
    simp only [select] at h
    split at h
    · split at h
      · next hm => cases h; simpa [FramerOp.instr, Instr.wf, isMarker] using hm
      · next hm => cases h; simpa [FramerOp.instr, Instr.wf, isMarker] using hm
    · cases h
  | true =>
    simp only [select] at h
    split at h
    · split at h
      · next hm => cases h; simpa [FramerOp.instr, Instr.wf, isVerlen] using hm
      · next hm => cases h; simpa [FramerOp.instr, Instr.wf, isVerlen] using hm
    · split at h
      · cases h; rfl
      · split at h
        · cases h; rfl
        · cases h

/-- Every format-B operation is its effect behind the gate `whenSelected`. -/
theorem exec_framer_gated (op : FramerOp) (b : Byte) (s : State) : ∃ o, exec (op.instr b) s = whenSelected op b s o := by
  cases op <;> exact ⟨_, rfl⟩

/-- `PUSH` is the operation its byte selects. -/
theorem exec_push_of_select {s : State} {b : Byte} {op : FramerOp} (h : select s.sync s.cnt b = some op) :
    exec (.push b) s = exec (op.instr b) s := by
  simp only [exec, execPush, h]
  cases op <;> rfl

/-- An Idle, empty Framer is well formed. -/
theorem framerWf_of_idle {s : State} (hs : s.sync = false) (hc : s.cnt = 0#6) (hb : s.buf = []) : s.FramerWf := by
  simp [State.FramerWf, hs, hc, hb]

/-- An append after the sentinels keeps the invariant of 10_state.md R24. -/
theorem appendByte_framerWf {s : State} (b : Byte) (hw : s.FramerWf) (hs : s.sync = true) (h2 : 2 ≤ s.cnt.toNat)
    (h45 : s.cnt.toNat ≤ 45) : (appendByte b s).FramerWf := by
  have hc : (s.cnt + 1#6).toNat = s.cnt.toNat + 1 := by rw [BitVec.toNat_add]; simp; omega
  obtain ⟨-, hacc, hv, hk⟩ := hw
  have hm := (hacc hs).2.2
  have hne : s.cnt + 1#6 ≠ 0#6 := by intro h0; rw [h0] at hc; simp at hc
  refine ⟨by simp [appendByte, hne], fun _ => ⟨?_, ?_, ?_⟩, fun _ => ?_, ?_⟩ <;>
    simp only [appendByte, State.setFramer_cnt, State.setFramer_buf]
  · omega
  · omega
  · rw [Memory.read_write_other _ _ (by omega)]; exact hm
  · rw [Memory.read_write_other _ _ (by omega)]; exact hv h2
  · rw [hc]; exact Memory.keys_after_append b hk

/-- The 47th byte completes a frame: the buffer and that byte. -/
theorem frame_of_full_buffer {s : State} (hw : s.FramerWf) (hc : s.cnt = 46#6) (b : Byte) :
    ∃ f : Frame, f.toList = s.buf.bytes ++ [b] ∧ Frame.ofBytes? (s.buf.write 46 b).bytes = some f := by
  have hk : s.buf.map Prod.fst = List.range 46 := by rw [hw.2.2.2, hc]; rfl
  have hl : (s.buf.bytes ++ [b]).length = 47 := by rw [List.length_append, Memory.bytes_length, hk]; simp
  refine ⟨⟨(s.buf.bytes ++ [b]).toArray, by simpa using hl⟩, rfl, ?_⟩
  rw [Frame.ofBytes?_eq_some, Memory.bytes_after_append b hk]
  rfl

end Sys2Proof.Machine
end

