-- ==== Sys2Proof/Laws/Stream.lean ====
section
/-! SUPPORT. The laws of a run: bytes pushed one after the other, and steps one after the other. -/

namespace Sys2Proof.Machine

@[simp] theorem pushAll_nil (s : State) : pushAll [] s = .next s := rfl

theorem pushAll_cons_next {b : Byte} {l : List Byte} {s t : State} (h : exec (.push b) s = .next t) :
    pushAll (b :: l) s = pushAll l t := by
  have h' : execPush b s = .next t := h
  simp only [pushAll, h']

theorem pushAll_cons_refused {b : Byte} {l : List Byte} {s : State} {r : Refusal}
    (h : exec (.push b) s = .refused r) : pushAll (b :: l) s = .refused r := by
  have h' : execPush b s = .refused r := h
  simp only [pushAll, h']

/-- A stream can be cut anywhere: the state in between is all that the rest depends on. -/
theorem pushAll_append_next {l m : List Byte} {s t : State} (h : pushAll l s = .next t) :
    pushAll (l ++ m) s = pushAll m t := by
  induction l generalizing s with
  | nil => cases h; rfl
  | cons b l ih =>
    simp only [pushAll, List.cons_append] at h ⊢
    split at h
    · exact ih h
    · cases h
    · cases h

theorem run_succ_next {s t : State} {n : Nat} (h : step s = .next t) : core.run (n + 1) s = core.run n t := by
  have h' : core.step s = .next t := h
  simp only [Host.Core.run, h']

theorem run_succ_refused {s : State} {r : Refusal} {n : Nat} (h : step s = .refused r) :
    core.run (n + 1) s = .refused r := by
  have h' : core.step s = .refused r := h
  simp only [Host.Core.run, h']

end Sys2Proof.Machine
end

