-- ==== Sys2Proof/Tests/Slice0.lean ====
section
/-! SUPPORT. The model's own tests. Expected results are the worked examples of the rules and the vectors of
95_test_vectors.md (named in each comment), not the model's answers. Then one witness for the hypotheses of every
statement that has any. -/

set_option maxRecDepth 20000

namespace Sys2Proof.Tests

open Sys2Proof Sys2Proof.Machine Sys2Proof.Claims

/-! ### Small states -/

/-- A state at a byte boundary whose buffer holds the bytes given (10_state.md R24). -/
def holding (l : List Byte) : State :=
  { State.reset with sync := !l.isEmpty, cnt := BitVec.ofNat 6 l.length, buf := (List.range l.length).zip l }

/-- The next state of an outcome, for reading a field of it. -/
def nextOr (d : State) : Host.Outcome State Fault Refusal → State
  | .next t => t
  | .fault _ => d
  | .refused _ => d

/-- The state after an instruction from `s`, and `s` with a changed cursor where there is none. -/
def after (i : Instr) (s : State) : State := nextOr { s with cnt := 63#6 } (exec i s)

/-- `(sync, cnt, buf)` of a state, the buffer as bytes. -/
def framer (s : State) : Bool × Nat × List Byte := (s.sync, s.cnt.toNat, s.buf.bytes)

/-- Twelve equal points. -/
def twelve (d : Half) (c : Byte) : Vector Point 12 := Vector.replicate 12 ⟨d, c⟩

/-- `FRAME(sa=0, ea=1000, pts=(2000,200)*12)` (V1). -/
def argsV1 : FrameArgs := { sa := 0#16, ea := 1000#16, pts := twelve 2000#16 200#8 }

/-- `FRAME(sa=35900, ea=100, pts=(500,101)*12)` (V60). -/
def argsV60 : FrameArgs := { sa := 35900#16, ea := 100#16, pts := twelve 500#16 101#8 }

/-- The points of V62. -/
def ptsV62 : Vector Point 12 :=
  ⟨#[⟨1#16, 101#8⟩, ⟨65535#16, 255#8⟩, ⟨1#16, 100#8⟩, ⟨0#16, 101#8⟩, ⟨500#16, 0#8⟩, ⟨500#16, 255#8⟩,
     ⟨0#16, 0#8⟩, ⟨256#16, 101#8⟩, ⟨255#16, 102#8⟩, ⟨2000#16, 200#8⟩, ⟨1000#16, 150#8⟩, ⟨12000#16, 101#8⟩], rfl⟩

/-- V62. -/
def argsV62 : FrameArgs :=
  { sa := 12345#16, ea := 12400#16, pts := ptsV62, spd := 0x1234#16, ts := 0xABCD#16 }

/-- The bytes of V62 as 95_test_vectors.md writes them. -/
def bytesV62 : List Byte :=
  [0x54#8, 0x2C#8, 0x34#8, 0x12#8, 0x39#8, 0x30#8] ++
  [0x01#8, 0x00#8, 0x65#8, 0xFF#8, 0xFF#8, 0xFF#8, 0x01#8, 0x00#8, 0x64#8, 0x00#8, 0x00#8, 0x65#8] ++
  [0xF4#8, 0x01#8, 0x00#8, 0xF4#8, 0x01#8, 0xFF#8, 0x00#8, 0x00#8, 0x00#8, 0x00#8, 0x01#8, 0x65#8] ++
  [0xFF#8, 0x00#8, 0x66#8, 0xD0#8, 0x07#8, 0xC8#8, 0xE8#8, 0x03#8, 0x96#8, 0xE0#8, 0x2E#8, 0x65#8] ++
  [0x70#8, 0x30#8, 0xCD#8, 0xAB#8, 0x5A#8]

/-- The frame of 47 zero bytes. -/
def zeroFrame : Frame := ⟨(List.replicate 47 0#8).toArray, by simp⟩

/-- A list of bytes as a frame, the zero frame where it has not 47. -/
def frameOf (l : List Byte) : Frame := (Frame.ofBytes? l).getD zeroFrame

/-! ### Well-formedness: an ill-formed term for each check, refused, and a good one beside it -/

theorem test_wf_skip_is_not_marker : (Instr.fSkip 0x54#8).wf = false ∧ (Instr.fSkip 0x2C#8).wf = true := by decide
theorem test_wf_sync_is_marker : (Instr.fSync 0x55#8).wf = false ∧ (Instr.fSync 0x54#8).wf = true := by decide
theorem test_wf_lenok_is_sentinel : (Instr.fLenok 0x54#8).wf = false ∧ (Instr.fLenok 0x2C#8).wf = true := by decide
theorem test_wf_desync_is_not_sentinel : (Instr.fDesync 0x2C#8).wf = false ∧ (Instr.fDesync 0x54#8).wf = true := by
  decide
theorem test_wf_raw_span_has_18_bits :
    (Instr.angRaw 0#16 131072 0).wf = false ∧ (Instr.angRaw 0#16 (-131073) 0).wf = false ∧
    (Instr.angRaw 0#16 131071 0).wf = true := by decide
theorem test_wf_norm_operand_has_21_bits :
    (Instr.angNorm (-1)).wf = false ∧ (Instr.angNorm 2097152).wf = false ∧ (Instr.angNorm 2097151).wf = true := by decide
theorem test_wf_decode_has_sentinels :
    (Instr.decode zeroFrame).wf = false ∧ (Instr.decode (zeroFrame.set 0 0x54#8)).wf = false ∧
    (Instr.decode ((zeroFrame.set 0 0x54#8).set 1 0x2C#8)).wf = true := by decide
theorem test_wf_part_has_at_most_47_bytes :
    (StreamItem.part argsV1 48).wf = false ∧ (StreamItem.part argsV1 47).wf = true := by decide

/-! ### Decoding: words written out bit by bit from 30_encoding.md R62 and R75 -/

theorem test_decode_sync_word : decodeByte false 0#6 [0b01010100#8] = .ok (.fSync 0x54#8, []) := by decide
theorem test_decode_skip_word : decodeByte false 0#6 [0b00101100#8] = .ok (.fSkip 0x2C#8, []) := by decide
theorem test_decode_lenok_word : decodeByte true 1#6 [0b00101100#8] = .ok (.fLenok 0x2C#8, []) := by decide
theorem test_decode_desync_word : decodeByte true 1#6 [0b01010100#8] = .ok (.fDesync 0x54#8, []) := by decide
theorem test_decode_append_words :
    decodeByte true 2#6 [0b01010100#8] = .ok (.fAppend 0x54#8, []) ∧
    decodeByte true 45#6 [0b11111111#8] = .ok (.fAppend 0xFF#8, []) := by decide
theorem test_decode_emit_word : decodeByte true 46#6 [0b01110111#8] = .ok (.fEmit 0x77#8, []) := by decide
theorem test_decode_rejects_by_name :
    decodeByte false 0#6 [] = .reject .noByte ∧ decodeByte true 0#6 [0x54#8] = .reject .unreachableFramerState ∧
    decodeByte false 1#6 [0x54#8] = .reject .unreachableFramerState ∧
    decodeByte true 47#6 [0x54#8] = .reject .unreachableFramerState := by decide

/-- V62, and back. -/
theorem test_decode_frame_word : decodeFrame bytesV62 = .ok ({ argsV62 with crc := .byte 0x5A#8 }, []) := by decide
/-- V62: expansion, with its checksum under the default table. -/
theorem test_encode_frame_word : encode defaultCrcTable (.frame argsV62) = some bytesV62 := by decide
theorem test_formats_s_and_h_have_no_word :
    encode defaultCrcTable .nobyte = none ∧ encode defaultCrcTable (.push 0x54#8) = none ∧
    encode defaultCrcTable (.crcUpd 0#8 0#8) = none ∧ encode defaultCrcTable (.ldU8 zeroFrame 0 .conf) = none ∧
    encode defaultCrcTable (.angNorm 0) = none ∧ encode defaultCrcTable (.ptFilt 0#16 0#8) = none := by decide
/-- 30_encoding.md R81: `54*2`, then the first 3 bytes of V1. -/
theorem test_stream_notation :
    streamBytes defaultCrcTable [.rep 0x54#8 2, .part argsV1 3, .byte 0x99#8] =
      [0x54#8, 0x54#8, 0x54#8, 0x2C#8, 0x00#8, 0x99#8] := by decide
/-- The table's words (log entry 9). -/
theorem test_table_words :
    decodeTableWord 8 0x54 = some (.fSync 0x54#8) ∧ decodeTableWord 8 0x2C = some (.fLenok 0x2C#8) ∧
    decodeTableWord 8 0x99 = some (.fSkip 0x99#8) := by decide
/-- The `FRAME` word with all operands zero. -/
theorem test_table_frame_word :
    decodeTableWord 16 0x2C54 =
      some (.frame { sa := 0#16, ea := 0#16, pts := twelve 0#16 0#8, crc := .byte 0#8 }) := by decide
theorem test_fetch_word_runs :
    framer (nextOr (holding []) (step (State.reset.withFetchWord 8 0x54))) = (true, 1, [0x54#8]) ∧
    framer (nextOr (holding []) (step (State.reset.withFetchWord 8 0x2C))) = (true, 2, [0x54#8, 0x2C#8]) := by decide

/-! ### The Framer -/

/-- R101's example. -/
theorem test_skip : framer (after (.fSkip 0x99#8) (holding [])) = (false, 0, []) := by decide
/-- R102's example. -/
theorem test_sync : framer (after (.fSync 0x54#8) (holding [])) = (true, 1, [0x54#8]) := by decide
/-- R103's example. -/
theorem test_lenok : framer (after (.fLenok 0x2C#8) (holding [0x54#8])) = (true, 2, [0x54#8, 0x2C#8]) := by decide
/-- R104's example. -/
theorem test_desync : framer (after (.fDesync 0x99#8) (holding [0x54#8])) = (false, 0, []) := by decide
/-- R104: a marker as second byte is not looked at again. -/
theorem test_desync_on_marker :
    framer (after (.push 0x54#8) (holding [0x54#8])) = (false, 0, []) ∧
    (after (.push 0x54#8) (holding [0x54#8])).trace = [.desync] := by decide
/-- R105's example. -/
theorem test_append :
    framer (after (.fAppend 0x00#8) (holding [0x54#8, 0x2C#8])) = (true, 3, [0x54#8, 0x2C#8, 0x00#8]) := by decide
/-- V17: twelve filtered points, no output. -/
theorem test_emit_filtered :
    framer (after (.fEmit 0xBE#8) (holding (0x54#8 :: 0x2C#8 :: List.replicate 44 0#8))) = (false, 0, []) ∧
    (after (.fEmit 0xBE#8) (holding (0x54#8 :: 0x2C#8 :: List.replicate 44 0#8))).out = [] ∧
    (after (.fEmit 0xBE#8) (holding (0x54#8 :: 0x2C#8 :: List.replicate 44 0#8))).trace.drop 1 =
      List.replicate 12 .lowq := by decide
/-- V1: the step of its 47th byte. -/
theorem test_emit_samples :
    (after (.fEmit 0x77#8) (holding argsV1.body)).out =
      (List.range 12).map fun i => ⟨1000 * (i : Int), 2000#16, 200#8⟩ := by decide

/-! ### The checksum, with the default table -/

/-- R121's example. -/
theorem test_crc_upd :
    (after (.crcUpd 0x00#8 0x54#8) (holding [])).work.acc = 0xEE#8 ∧
    (after (.crcUpd 0xEE#8 0x2C#8) (holding [])).work.acc = 0xD8#8 := by decide
/-- V21h. -/
theorem test_crc_calc :
    (after (.crcCalc [0x31#8, 0x32#8, 0x33#8, 0x34#8, 0x35#8, 0x36#8, 0x37#8, 0x38#8, 0x39#8]) (holding [])).work.acc =
      0xC3#8 := by decide
/-- R123's example and V16. -/
theorem test_crc_chk :
    (after (.crcChk 0xBE#8 0xBE#8) (holding [])).work.crcOk = true ∧
    (after (.crcChk 0xBE#8 0x00#8) (holding [])).work.crcOk = false ∧
    (after (.crcChk 0xBE#8 0x00#8) (holding [])).trace = [.crc] := by decide
/-- R125's check values. -/
theorem test_default_table :
    defaultCrcTable.entry 0x00#8 = 0x00#8 ∧ defaultCrcTable.entry 0x01#8 = 0x4D#8 ∧
    defaultCrcTable.entry 0x02#8 = 0x9A#8 ∧ defaultCrcTable.entry 0x54#8 = 0xEE#8 ∧
    defaultCrcTable.entry 0x80#8 = 0x7C#8 ∧ defaultCrcTable.entry 0xFF#8 = 0xA8#8 := by decide

/-! ### The unpacker -/

/-- R135's example: offset 8 of V62 is 0x65. -/
theorem test_ld_u8 : (after (.ldU8 (frameOf bytesV62) 8 .conf) (holding [])).work.conf = 0x65#8 := by decide
/-- V34 at an even offset, V35 at an odd one (offsets 6 and 27 of V62), and 12345 at offset 4. -/
theorem test_ld_u16le :
    (after (.ldU16le (frameOf bytesV62) 6 .dist) (holding [])).work.dist = 1#16 ∧
    (after (.ldU16le (frameOf bytesV62) 27 .dist) (holding [])).work.dist = 256#16 ∧
    (after (.ldU16le (frameOf bytesV62) 4 .sa) (holding [])).work.sa = 12345#16 := by decide

/-! ### The angles -/

/-- R151's examples, and V4B. -/
theorem test_ang_diff :
    (after (.angDiff 35900#16 100#16) (holding [])).work.diff = 200 ∧
    (after (.angDiff 0#16 1000#16) (holding [])).work.diff = 1000 ∧
    (after (.angDiff 65535#16 0#16) (holding [])).work.diff = -29535 := by decide
/-- R153's example. -/
theorem test_ang_raw : (after (.angRaw 35900#16 200 11) (holding [])).work.nraw = 397100 := by decide
/-- R154's examples, and the boundary of V44. -/
theorem test_ang_norm :
    (after (.angNorm 397100) (holding [])).work.n = 1100 ∧ (after (.angNorm 395999) (holding [])).work.n = 395999 ∧
    (after (.angNorm 396000) (holding [])).work.n = 0 := by decide

/-! ### The filter and the decoder -/

/-- V51, V52. -/
theorem test_pt_filt :
    (after (.ptFilt 500#16 100#8) (holding [])).work.keep = false ∧
    (after (.ptFilt 500#16 101#8) (holding [])).work.keep = true ∧
    (after (.ptFilt 500#16 100#8) (holding [])).trace = [.lowq] := by decide
/-- V62. -/
theorem test_decode_mixed_frame :
    (after (.decode (frameOf bytesV62)) (holding [])).work.samples =
      [⟨135795, 1#16, 101#8⟩, ⟨135850, 65535#16, 255#8⟩, ⟨136070, 500#16, 255#8⟩, ⟨136180, 256#16, 101#8⟩,
       ⟨136235, 255#16, 102#8⟩, ⟨136290, 2000#16, 200#8⟩, ⟨136345, 1000#16, 150#8⟩, ⟨136400, 12000#16, 101#8⟩] := by
  decide
/-- V60, whose angles are those of V41. -/
theorem test_decode_wrapping_frame :
    (after (.decode (frameOf (argsV60.body ++ [0x0C#8]))) (holding [])).work.samples.map Sample.n =
      [394900, 395100, 395300, 395500, 395700, 395900, 100, 300, 500, 700, 900, 1100] := by decide

/-! ### The host operations -/

/-- R181's example. -/
theorem test_push : framer (after (.push 0x54#8) State.reset) = (true, 1, [0x54#8]) := by decide
theorem test_nobyte : framer (after .nobyte (holding [0x54#8, 0x2C#8])) = (true, 2, [0x54#8, 0x2C#8]) := by decide
theorem test_reset :
    framer (after .reset (holding [0x54#8, 0x2C#8])) = (false, 0, []) ∧
    (after .reset (holding [0x54#8, 0x2C#8])).trace = [] := by decide
/-- V1: 47 bytes, the checksum byte 0x77. -/
theorem test_frame :
    (after (.frame argsV1) State.reset).input.length = 47 ∧
    (after (.frame argsV1) State.reset).input[46]? = some (.push 0x77#8) := by decide
/-- D17: a state off the invariant is refused. -/
theorem test_illFormed_refused :
    exec (.push 0x54#8) { State.reset with cnt := 1#6 } = .refused .illFormedFramerState := rfl

/-! ### Witnesses: for each statement with hypotheses, a state and operands that meet them all -/

/-- A table that is plainly a permutation: entry `i` is `i`. -/
def idTable : CrcTable := Vector.ofFn fun i => BitVec.ofNat 8 i.val

theorem idTable_entry (i : Byte) : idTable.entry i = i := by simp [idTable, CrcTable.entry]

theorem idTable_isPermutation : idTable.IsPermutation := fun i j h => by rwa [idTable_entry, idTable_entry] at h

/-- The bytes after the sentinels in `n` bytes held. -/
def heldBytes (n : Nat) : List Byte := 0x54#8 :: 0x2C#8 :: List.replicate (n - 2) 0x54#8

theorem idle_framerWf : (holding []).FramerWf := by decide
theorem one_framerWf : (holding [0x54#8]).FramerWf := by decide
theorem two_framerWf : (holding (heldBytes 2)).FramerWf := by decide
theorem body_framerWf : (holding (heldBytes 45)).FramerWf := by decide
theorem last_framerWf : (holding (heldBytes 46)).FramerWf := by decide

/-- StepKeepsInvariant. -/
theorem witness_StepKeepsInvariant :
    ∃ s t : State, Inv s ∧ s.cnt = 46#6 ∧ s.input = [.push 0x00#8] ∧ step s = .next t := by
  refine ⟨{ holding (heldBytes 46) with rom := idTable, input := [.push 0x00#8] }, _,
    ⟨last_framerWf, ?_, idTable_isPermutation, rfl⟩, rfl, rfl, rfl⟩
  show (holding (heldBytes 46)).buf.wf
  decide

/-- StepNeverStops, SkipLeavesIdleBlockUnchanged (0x55 and 0x53), NoiseInIdleIsIgnored. -/
theorem witness_idle_noise :
    (holding []).FramerWf ∧ (holding []).sync = false ∧ (holding []).cnt = 0#6 ∧ (0x53#8 : Byte) ≠ 0x54#8 ∧
    (0x55#8 : Byte) ≠ 0x54#8 ∧ 0x54#8 ∉ [0x53#8, 0x2C#8, 0x55#8] := by decide

/-- StepRunsNextHostItem: each of the five clauses. -/
theorem witness_StepRunsNextHostItem :
    (∃ s : State, s.input = [.push 0xFF#8]) ∧ (∃ s : State, s.input = [.noByte]) ∧ (∃ s : State, s.input = [.reset]) ∧
    (∃ s : State, s.input = [.frame argsV1]) ∧ (∃ s : State, s.input = []) :=
  ⟨⟨State.reset.setInput _, rfl⟩, ⟨State.reset.setInput _, rfl⟩, ⟨State.reset.setInput _, rfl⟩,
    ⟨State.reset.setInput _, rfl⟩, ⟨State.reset, rfl⟩⟩

/-- StepRunsDecodedInstruction, at both ends of the row of F.APPEND. -/
theorem witness_StepRunsDecodedInstruction :
    (∃ s : State, s.input = [.push 0x54#8] ∧ s.cnt = 2#6 ∧
      decodeByte s.sync s.cnt [0x54#8] = .ok (.fAppend 0x54#8, [])) ∧
    (∃ s : State, s.input = [.push 0x54#8] ∧ s.cnt = 45#6 ∧
      decodeByte s.sync s.cnt [0x54#8] = .ok (.fAppend 0x54#8, [])) :=
  ⟨⟨(holding (heldBytes 2)).setInput [.push 0x54#8], rfl, rfl, by decide⟩,
    ⟨(holding (heldBytes 45)).setInput [.push 0x54#8], rfl, rfl, by decide⟩⟩

/-- FetchedTableWordRunsNext: a byte and a FRAME. -/
theorem witness_FetchedTableWordRunsNext :
    decodeTableWord 8 0xFF = some (.fSkip 0xFF#8) ∧
    (decodeTableWord 376 0x2C54).isSome = true := by decide

/-- ExactlyOneFramerOperationPerByte, PushRunsSelectedOperation: a state in each row of the select. -/
theorem witness_each_row :
    rowOf .skip (holding []).sync (holding []).cnt.toNat ∧
    rowOf .lenok (holding [0x54#8]).sync (holding [0x54#8]).cnt.toNat ∧
    rowOf .append (holding (heldBytes 2)).sync (holding (heldBytes 2)).cnt.toNat ∧
    rowOf .append (holding (heldBytes 45)).sync (holding (heldBytes 45)).cnt.toNat ∧
    rowOf .emit (holding (heldBytes 46)).sync (holding (heldBytes 46)).cnt.toNat := by
  refine ⟨⟨rfl, rfl⟩, ⟨rfl, rfl⟩, ⟨rfl, ?_⟩, ⟨rfl, ?_⟩, ⟨rfl, rfl⟩⟩ <;> decide

/-- SyncStartsAccumulatingWithMarker. -/
theorem witness_SyncStartsAccumulatingWithMarker :
    (holding []).FramerWf ∧ (holding []).sync = false ∧ (holding []).cnt = 0#6 := by decide

/-- LenokAppendsLengthSentinel, and DesyncDiscardsBufferAndByte on a marker and on the neighbours of the sentinel. -/
theorem witness_second_byte :
    (holding [0x54#8]).FramerWf ∧ (holding [0x54#8]).sync = true ∧ (holding [0x54#8]).cnt = 1#6 ∧
    (0x54#8 : Byte) ≠ 0x2C#8 ∧ (0x2B#8 : Byte) ≠ 0x2C#8 ∧ (0x2D#8 : Byte) ≠ 0x2C#8 := by decide

/-- AppendWritesOneByteAtCursor, at both ends of its range. -/
theorem witness_AppendWritesOneByteAtCursor :
    ((holding (heldBytes 2)).FramerWf ∧ (holding (heldBytes 2)).sync = true ∧ (holding (heldBytes 2)).cnt.toNat = 2) ∧
    ((holding (heldBytes 45)).FramerWf ∧ (holding (heldBytes 45)).sync = true ∧
      (holding (heldBytes 45)).cnt.toNat = 45) := by decide

/-- EmitDecodesFrameAndReturnsToIdle. -/
theorem witness_EmitDecodesFrameAndReturnsToIdle :
    (holding (heldBytes 46)).FramerWf ∧ (holding (heldBytes 46)).sync = true ∧ (holding (heldBytes 46)).cnt = 46#6 := by
  decide

/-- UnselectedOrIllFormedIsRefused: both clauses. -/
theorem witness_UnselectedOrIllFormedIsRefused :
    ((holding []).FramerWf ∧ select (holding []).sync (holding []).cnt 0x54#8 ≠ some .skip) ∧
    ¬ ({ State.reset with cnt := 1#6 } : State).FramerWf ∧
    ¬ ({ State.reset with sync := true, cnt := 47#6 } : State).FramerWf := by decide

/-- FramerOperationsSetCursorAndFlag, CandidateFramesCarryBothSentinels: a step of each kind answers a next state. -/
theorem witness_framer_steps :
    Runs (exec (.fSkip 0x53#8) (holding [])) ∧ Runs (exec (.fSync 0x54#8) (holding [])) ∧
    Runs (exec (.fLenok 0x2C#8) (holding [0x54#8])) ∧ Runs (exec (.fDesync 0x54#8) (holding [0x54#8])) ∧
    Runs (exec (.fAppend 0x54#8) (holding (heldBytes 2))) ∧ Runs (exec (.fEmit 0x00#8) (holding (heldBytes 46))) ∧
    Runs (exec (.push 0x00#8) (holding (heldBytes 46))) :=
  ⟨⟨_, rfl⟩, ⟨_, rfl⟩, ⟨_, rfl⟩, ⟨_, rfl⟩, ⟨_, rfl⟩, ⟨_, rfl⟩, ⟨_, rfl⟩⟩

/-- NoMidFrameResynchronization, with the longest body and with none. -/
theorem witness_NoMidFrameResynchronization :
    ((holding (heldBytes 2)).FramerWf ∧ 2 ≤ (holding (heldBytes 2)).cnt.toNat ∧
      (holding (heldBytes 2)).cnt.toNat + (List.replicate 44 (0x54#8 : Byte)).length = 46) ∧
    ((holding (heldBytes 46)).FramerWf ∧ (holding (heldBytes 46)).cnt.toNat + ([] : List Byte).length = 46) := by decide

/-- RejectedSecondByteIsNotLookedAtAgain, ResynchronizesAfterFalseStart. -/
theorem witness_from_idle :
    (holding []).FramerWf ∧ (holding []).sync = false ∧ (0x54#8 : Byte) ≠ 0x2C#8 ∧
    (List.replicate 45 (0x00#8 : Byte)).length = 45 := by decide

/-- OutputComesFromConsecutiveStreamBytes: a stream with a candidate frame. -/
theorem witness_OutputComesFromConsecutiveStreamBytes :
    (holding []).FramerWf ∧ (holding []).sync = false ∧
    Runs (pushAll ([0x54#8, 0x99#8, 0x54#8, 0x2C#8] ++ List.replicate 45 0x00#8) (holding [])) :=
  ⟨idle_framerWf, rfl, ⟨_, rfl⟩⟩

/-- CrcChkDropsOnMismatchOnly: both clauses. -/
theorem witness_CrcChkDropsOnMismatchOnly : (0xBE#8 : Byte) = 0xBE#8 ∧ (0xBE#8 : Byte) ≠ 0xBF#8 := by decide

/-- OneByteChangeChangesChecksum, at the first and the last byte. -/
theorem witness_OneByteChangeChangesChecksum :
    idTable.IsPermutation ∧ (0 < [0x54#8, 0x2C#8].length ∧ (0xD4#8 : Byte) ≠ [0x54#8, 0x2C#8][0]) ∧
    (1 < [0x54#8, 0x2C#8].length ∧ (0x2D#8 : Byte) ≠ [0x54#8, 0x2C#8][1]) :=
  ⟨idTable_isPermutation, by decide, by decide⟩

/-- NonPermutationTableMissesOneByteChange: the table of zeros. -/
theorem witness_NonPermutationTableMissesOneByteChange :
    ¬ CrcTable.IsPermutation (Vector.replicate 256 0#8) := by
  intro h
  exact absurd (h 0#8 1#8 (by simp [CrcTable.entry])) (by decide)

/-- OneByteMutationIsRejected, at the first byte, the last covered one and the checksum byte. -/
theorem witness_OneByteMutationIsRejected :
    ∃ s : State, s.rom.IsPermutation ∧ accepted s.rom zeroFrame ∧ (0x80#8 : Byte) ≠ zeroFrame[0] ∧
      (0x01#8 : Byte) ≠ zeroFrame[45] ∧ (0x01#8 : Byte) ≠ zeroFrame[46] :=
  ⟨{ State.reset with rom := idTable }, idTable_isPermutation, by decide, by decide, by decide, by decide⟩

/-- AngDiffIsSignedSpan: equal fields, and a start angle one above the end angle. -/
theorem witness_AngDiffIsSignedSpan :
    (35999#16 : Half).toNat ≤ (35999#16 : Half).toNat ∧ (0#16 : Half).toNat < (1#16 : Half).toNat := by decide

/-- AngRawInterpolatesExactly: the second clause, at the first and the last point of V4B and V4C. -/
theorem witness_AngRawInterpolatesExactly :
    (∃ u t, exec (.angDiff 65535#16 0#16) State.reset = .next u ∧
      exec (.angRaw 65535#16 u.work.diff 0) u = .next t) ∧
    (∃ u t, exec (.angDiff 65535#16 65534#16) State.reset = .next u ∧
      exec (.angRaw 65535#16 u.work.diff 11) u = .next t) :=
  ⟨⟨_, _, rfl, rfl⟩, ⟨_, _, rfl, rfl⟩⟩

/-- AngNormSubtractsOneTurnOnce: both clauses at the boundary. -/
theorem witness_AngNormSubtractsOneTurnOnce : (396000 : Int) ≤ 396000 ∧ (395999 : Int) < 396000 := by decide

/-- InRangeFieldsGiveInRangeAngles: V62, accepted, with Samples. -/
theorem witness_InRangeFieldsGiveInRangeAngles :
    halfAt (frameOf bytesV62) 4 < 36000 ∧ halfAt (frameOf bytesV62) 42 < 36000 ∧
    Runs (exec (.decode (frameOf bytesV62)) State.reset) := ⟨by decide, by decide, ⟨_, rfl⟩⟩

/-- AnglesRiseButForOneWrap, at the top of the range (V44). -/
theorem witness_AnglesRiseButForOneWrap :
    (35999#16 : Half).toNat < 36000 ∧ (0#16 : Half).toNat < 36000 := by decide

/-- PtFiltKeepsStrictly: both clauses at the boundary (V53, V55, V56). -/
theorem witness_PtFiltKeepsStrictly :
    (0 < (1#16 : Half).toNat ∧ 100 < (101#8 : Byte).toNat) ∧ ¬ (0 < (1#16 : Half).toNat ∧ 100 < (100#8 : Byte).toNat) ∧
    ¬ (0 < (0#16 : Half).toNat ∧ 100 < (101#8 : Byte).toNat) := by decide

/-- SamplesAreFilteredPointsInOrder, NothingWritesTheTable, NothingReadsOutputOrTrace: a `DECODE` that answers. -/
theorem witness_SamplesAreFilteredPointsInOrder : ∃ t, exec (.decode (frameOf bytesV62)) State.reset = .next t :=
  ⟨_, rfl⟩

/-- DecodeIsPureAndIdempotent: two different states with one table. -/
theorem witness_DecodeIsPureAndIdempotent :
    ∃ s s' : State, s.rom = s'.rom ∧ s.sync ≠ s'.sync := ⟨holding [], holding [0x54#8], rfl, by decide⟩

/-- DecoderOperationsLeaveFramerAlone. -/
theorem witness_DecoderOperationsLeaveFramerAlone :
    isFormatS (.crcUpd 0#8 0#8) = true ∧ ∃ s s' : State, s'.rom = s.rom ∧ s'.work = s.work ∧ s.sync ≠ s'.sync :=
  ⟨rfl, holding [], holding [0x54#8], rfl, rfl, by decide⟩

/-- FrameExpandsToItsBytes: the three forms of its checksum argument. -/
theorem witness_FrameExpandsToItsBytes :
    argsV1.crc = .ok ∧ ({ argsV1 with crc := .bad } : FrameArgs).crc = .bad ∧
    ({ argsV1 with crc := .byte 0xFF#8 } : FrameArgs).crc = .byte 0xFF#8 := by decide

/-- FrameInFrameOut: both forms of the checksum argument. -/
theorem witness_FrameInFrameOut :
    (∃ s : State, s.FramerWf ∧ s.sync = false ∧ s.input = [.frame argsV1] ∧ argsV1.crc = .ok) ∧
    (∃ s : State, s.FramerWf ∧ s.sync = false ∧ s.input = [.frame { argsV1 with crc := .bad }]) :=
  ⟨⟨(holding []).setInput [.frame argsV1], idle_framerWf, rfl, rfl, rfl⟩,
    ⟨(holding []).setInput [.frame { argsV1 with crc := .bad }], idle_framerWf, rfl, rfl⟩⟩

/-- FramerDecodeOfEncode, in the states at the ends of each row. -/
theorem witness_FramerDecodeOfEncode :
    (FramerOp.append.instr 0xFF#8).wf = true ∧ rowOf .append true (2#6 : BitVec 6).toNat ∧
    rowOf .append true (45#6 : BitVec 6).toNat ∧ (FramerOp.desync.instr 0x54#8).wf = true ∧
    rowOf .desync true (1#6 : BitVec 6).toNat := by
  refine ⟨rfl, ⟨rfl, ?_⟩, ⟨rfl, ?_⟩, by decide, ⟨rfl, rfl⟩⟩ <;> decide

/-- FrameEncodeOfDecode. -/
theorem witness_FrameEncodeOfDecode :
    ∃ a, decodeFrame (bytesV62 ++ [0x99#8]) = .ok (a, [0x99#8]) := ⟨_, rfl⟩

/-- StepsRunPendingBytesInOrder: bytes pending before another item, and none. -/
theorem witness_StepsRunPendingBytesInOrder :
    (∃ s : State, s.input = [0x54#8, 0x2C#8].map .push ++ [.reset]) ∧
    (∃ s : State, s.input = ([] : List Byte).map .push ++ [.noByte]) :=
  ⟨⟨State.reset.setInput _, rfl⟩, ⟨State.reset.setInput _, rfl⟩⟩

/-- BackToBackFramesNeedNoIdleBytes: V62 twice, so that both frames have Samples to output. -/
theorem witness_BackToBackFramesNeedNoIdleBytes :
    ∃ (s : State) (l : List Byte), s.FramerWf ∧ s.sync = false ∧ l.length = 45 ∧ bytesV62 = [0x54#8, 0x2C#8] ++ l ∧
      s.input = ([0x54#8, 0x2C#8] ++ l ++ ([0x54#8, 0x2C#8] ++ l)).map .push ++ [] :=
  ⟨(holding []).setInput ((bytesV62 ++ bytesV62).map .push), bytesV62.drop 2, idle_framerWf, rfl, rfl, rfl, rfl⟩

/-- ByteEffectDependsOnTripleAndTable: two states that differ in everything else, on the byte that completes a frame. -/
theorem witness_ByteEffectDependsOnTripleAndTable :
    ∃ s s' t : State, s'.sync = s.sync ∧ s'.cnt = s.cnt ∧ s'.buf = s.buf ∧ s'.rom = s.rom ∧ s'.work ≠ s.work ∧
      s'.input ≠ s.input ∧ s'.trace ≠ s.trace ∧ exec (.push 0x00#8) s = .next t :=
  ⟨holding (heldBytes 46),
    { holding (heldBytes 46) with work := { Work.fresh with acc := 1#8 }, input := [.reset], trace := [.lowq] }, _,
    rfl, rfl, rfl, rfl, by decide, by decide, by decide, rfl⟩

end Sys2Proof.Tests
end

section
/-! Proofs about the operation select (30_encoding.md R75): its six rows cover every well-formed state and byte, they
exclude one another, and the operation of a row runs. -/

namespace Sys2Proof.Machine

open Sys2Proof Sys2Proof.Claims

@[simp] theorem isMarker_iff (b : Byte) : isMarker b = true ↔ b = 0x54#8 := by simp [isMarker]

@[simp] theorem isVerlen_iff (b : Byte) : isVerlen b = true ↔ b = 0x2C#8 := by simp [isVerlen]

/-- Each row of R75 selects its operation; no well-formedness is needed, a row fixes `sync` and bounds `cnt`. -/
theorem select_of_row {op : FramerOp} {sync : Bool} {cnt : BitVec 6} {b : Byte}
    (hrow : rowOf op sync cnt.toNat) (hb : byteOf op b) : select sync cnt b = some op := by
  cases op with
  | sync | skip =>
    obtain ⟨rfl, hc⟩ := hrow
    obtain rfl : cnt = 0#6 := BitVec.eq_of_toNat_eq hc
    simpa [select_idle, byteOf] using hb
  | lenok | desync =>
    obtain ⟨rfl, hc⟩ := hrow
    obtain rfl : cnt = 1#6 := BitVec.eq_of_toNat_eq hc
    simpa [select_second, byteOf] using hb
  | append =>
    obtain ⟨rfl, hc⟩ := hrow
    exact select_body hc b
  | emit =>
    obtain ⟨rfl, hc⟩ := hrow
    obtain rfl : cnt = 46#6 := BitVec.eq_of_toNat_eq hc
    exact select_last b

/-- Every well-formed state and byte lies in a row of R75. -/
theorem State.FramerWf.exists_row {s : State} (hw : s.FramerWf) (b : Byte) :
    ∃ op, rowOf op s.sync s.cnt.toNat ∧ byteOf op b := by
  obtain ⟨hs, hc⟩ | ⟨hs, hc⟩ | ⟨hs, hc⟩ | ⟨hs, hc⟩ := hw.cases
  · by_cases hb : b = 0x54#8
    · exact ⟨.sync, ⟨hs, congrArg BitVec.toNat hc⟩, hb⟩
    · exact ⟨.skip, ⟨hs, congrArg BitVec.toNat hc⟩, hb⟩
  · by_cases hb : b = 0x2C#8
    · exact ⟨.lenok, ⟨hs, congrArg BitVec.toNat hc⟩, hb⟩
    · exact ⟨.desync, ⟨hs, congrArg BitVec.toNat hc⟩, hb⟩
  · exact ⟨.append, ⟨hs, hc⟩, trivial⟩
  · exact ⟨.emit, ⟨hs, congrArg BitVec.toNat hc⟩, trivial⟩

theorem State.FramerWf.exists_select {s : State} (hw : s.FramerWf) (b : Byte) :
    ∃ op, select s.sync s.cnt b = some op := by
  obtain ⟨op, hrow, hb⟩ := hw.exists_row b
  exact ⟨op, select_of_row hrow hb⟩

/-- Selected means in the row: `select` is a function, so the row that the state and the byte lie in is the selected
one's. -/
theorem State.FramerWf.select_eq_some_iff {s : State} (hw : s.FramerWf) (b : Byte) (op : FramerOp) :
    select s.sync s.cnt b = some op ↔ rowOf op s.sync s.cnt.toNat ∧ byteOf op b := by
  refine ⟨fun hsel => ?_, fun ⟨hrow, hb⟩ => select_of_row hrow hb⟩
  obtain ⟨op', hrow, hb⟩ := hw.exists_row b
  obtain rfl : op' = op := Option.some.inj ((select_of_row hrow hb).symm.trans hsel)
  exact ⟨hrow, hb⟩

/-- 40_framer.md R106: with 46 bytes held, `F.EMIT` decodes the frame that they and its byte are. -/
theorem exec_fEmit_of_full {s : State} (hw : s.FramerWf) (hs : s.sync = true) (hc : s.cnt = 46#6) (b : Byte) :
    ∃ f : Frame, f.toList = s.buf.bytes ++ [b] ∧ exec (.fEmit b) s = .next (emitFrame f s) := by
  have hsel : select s.sync s.cnt b = some .emit := by rw [hs, hc]; exact select_last b
  obtain ⟨f, hbytes, hf⟩ := frame_of_full_buffer hw hc b
  exact ⟨f, hbytes, (whenSelected_selected hw hsel).trans (by rw [hf])⟩

/-- The selected operation runs: only `F.EMIT` has a condition of its own, and the 46 bytes held meet it. -/
theorem exec_runs_of_selected {s : State} {b : Byte} {op : FramerOp} (hw : s.FramerWf)
    (hsel : select s.sync s.cnt b = some op) : Runs (exec (op.instr b) s) := by
  cases op with
  | skip | sync | lenok | desync | append => exact ⟨_, whenSelected_selected hw hsel⟩
  | emit =>
    obtain ⟨⟨hs, hc⟩, -⟩ := (hw.select_eq_some_iff b .emit).mp hsel
    obtain ⟨f, -, hf⟩ := exec_fEmit_of_full hw hs (BitVec.eq_of_toNat_eq hc) b
    exact ⟨_, hf⟩

/-- Settles O8: the rows of R75 cover every well-formed state and byte, exclude one another, and run. -/
theorem exactlyOneFramerOperationPerByte : Obligations.ExactlyOneFramerOperationPerByte := by
  unfold Obligations.ExactlyOneFramerOperationPerByte
  exact fun s b hw => ⟨hw.select_eq_some_iff b, hw.exists_select b, fun _ => exec_runs_of_selected hw⟩

end Sys2Proof.Machine
end

section
/-! What `DECODE` computes, in the plain arithmetic of `Sys2Proof.Claims`: the fields and the angle of a point, the
Samples of the twelve points, and the events of the sequence (44_decode_emit.md R172). -/

namespace Sys2Proof.Machine

open Sys2Proof Sys2Proof.Claims

@[simp] theorem Frame.u16le_toNat (f : Frame) (a : Fin 46) : (f.u16le a).toNat = halfAt f a := le16_toNat _ _

/-- R151 in plain arithmetic. -/
theorem angleSpan_eq_span (sa ea : Half) : angleSpan sa ea = span sa.toNat ea.toNat := by
  simp [angleSpan, span, endNotBeforeStart]

/-- R151, R153 and R154 together in plain arithmetic. -/
theorem angleNorm_angleRaw_eq_angle (sa ea : Half) (i : Fin 12) :
    angleNorm (angleRaw sa (angleSpan sa ea) i) = angle sa.toNat ea.toNat i := by
  have hraw : angleRaw sa (angleSpan sa ea) i = rawAngle sa.toNat ea.toNat i := by
    rw [angleSpan_eq_span]; rfl
  simp [hraw, angleNorm, angle, reachesFullTurn]

/-- R170 on the fields of point `i`. -/
theorem keepPoint_eq_kept (f : Frame) (i : Fin 12) :
    keepPoint (f.u16le (distOffset i)) (f.u8 (confOffset i)) = kept f i := by
  rw [keepPoint, Frame.u16le_toNat]; rfl

/-- The span that `DECODE` takes from a frame. -/
def frameSpan (f : Frame) : Int := angleSpan (f.u16le saOffset) (f.u16le eaOffset)

theorem pointSamples_eq_sample (f : Frame) (i : Fin 12) :
    pointSamples f (f.u16le saOffset) (frameSpan f) i = if kept f i then [sample f i] else [] := by
  rw [pointSamples, keepPoint_eq_kept, frameSpan, angleNorm_angleRaw_eq_angle, Frame.u16le_toNat, Frame.u16le_toNat]
  rfl

theorem pointDrops_eq (f : Frame) (i : Fin 12) : pointDrops f i = if kept f i then [] else [.lowq] := by
  rw [pointDrops, keepPoint_eq_kept]

/-- The Samples of any points, in the order given: those kept. -/
theorem flatMap_pointSamples (f : Frame) (l : List (Fin 12)) :
    l.flatMap (pointSamples f (f.u16le saOffset) (frameSpan f)) = (l.filter (kept f)).map (sample f) := by
  induction l with
  | nil => rfl
  | cons i l ih =>
    rw [List.flatMap_cons, ih, pointSamples_eq_sample]
    cases hk : kept f i <;> simp [hk]

/-- The drops of any points: one for each that is not kept. -/
theorem flatMap_pointDrops (f : Frame) (l : List (Fin 12)) :
    l.flatMap (pointDrops f) = List.replicate (l.length - (l.filter (kept f)).length) .lowq := by
  induction l with
  | nil => rfl
  | cons i l ih =>
    rw [List.flatMap_cons, ih, pointDrops_eq]
    cases hk : kept f i with
    | true => simp [hk]
    | false => simp [hk, Nat.succ_sub (List.length_filter_le (kept f) l), List.replicate_succ]

/-- Steps 3 and 4: start angle and span of the frame; no Sample and no event yet. -/
theorem runSpan_spec (f : Frame) (s : State) :
    (runSpan f s).work.sa = f.u16le saOffset ∧ (runSpan f s).work.diff = frameSpan f ∧
    (runSpan f s).work.samples = s.work.samples ∧ (runSpan f s).trace = s.trace := ⟨rfl, rfl, rfl, rfl⟩

/-- Steps 3 to 6, all twelve points: the Samples of the frame and one `E_LOWQ` for each point that gives none. -/
theorem runSpan_runPoints_spec (f : Frame) (s : State) :
    (pointOrder.foldl (runPoint f) (runSpan f s)).work.samples = s.work.samples ++ samples f ∧
    (pointOrder.foldl (runPoint f) (runSpan f s)).trace =
      s.trace ++ List.replicate (12 - (samples f).length) .lowq := by
  obtain ⟨hsa, hdiff, hsamples, htrace⟩ := runSpan_spec f s
  obtain ⟨hloop, hevents⟩ := runPoints_spec f pointOrder (runSpan f s)
  rw [hsa, hdiff, hsamples, flatMap_pointSamples] at hloop
  rw [htrace, flatMap_pointDrops] at hevents
  have hlen : (samples f).length = (pointOrder.filter (kept f)).length := List.length_map _
  exact ⟨hloop, by rw [hevents, hlen]; rfl⟩

/-- The checksum compare of `CRC.CHK` in `DECODE` is acceptance. -/
theorem crcMatches_iff_accepted (t : CrcTable) (f : Frame) :
    crcMatches (t.crc8 f.covered) (f.u8 crcOffset) = true ↔ accepted t f := beq_iff_eq

/-- R172: what the whole sequence leaves as the Sample list and adds to the event history. -/
theorem runDecode_spec (f : Frame) (s : State) :
    (runDecode f s).work.samples = output s.rom f ∧ (runDecode f s).trace = s.trace ++ drops s.rom f := by
  obtain ⟨hok, hnone, htrace⟩ := runCheck_spec f s
  have hiff := crcMatches_iff_accepted s.rom f
  unfold runDecode
  by_cases hacc : accepted s.rom f
  · obtain ⟨hsamples, hevents⟩ := runSpan_runPoints_spec f (runCheck f s)
    rw [hiff.mpr hacc] at hok htrace
    simp [hok, hsamples, hevents, hnone, htrace, output, drops, hacc]
  · rw [Bool.eq_false_iff.mpr (mt hiff.mp hacc)] at hok htrace
    simp [hok, hnone, htrace, output, drops, hacc]

/-- R106 after the 47th byte: Idle, the Samples output, the hand-over and the drops recorded, nothing else of the block
or the host's side written. -/
theorem emitFrame_eq (f : Frame) (s : State) :
    emitFrame f s = { s with
      sync := false, cnt := 0#6, buf := [], work := Work.fresh,
      out := s.out ++ output s.rom f, trace := s.trace ++ emitEvents s.rom f } := by
  have hframe := runDecode_onlyWork f (s.toIdle.record (.cand f))
  obtain ⟨hsamples, hevents⟩ := runDecode_spec f (s.toIdle.record (.cand f))
  simp only [State.record_trace, State.record_rom, State.toIdle_trace, State.toIdle_rom, List.append_assoc]
    at hsamples hevents
  simp [emitFrame, State.deliver, State.setWork, hframe.sync, hframe.cnt, hframe.buf, hframe.rom, hframe.input,
    hframe.out, hsamples, hevents, emitEvents]

end Sys2Proof.Machine
end

section
/-! Proofs about the six Framer operations, each in the row of 30_encoding.md R75 that selects it (40_framer.md R101 to
R106). -/

namespace Sys2Proof.Machine

open Sys2Proof Sys2Proof.Claims

section Rows

variable {s : State} {b : Byte}

theorem exec_fSkip_of_row (hw : s.FramerWf) (hrow : rowOf .skip s.sync s.cnt.toNat) (hb : b ≠ 0x54#8) :
    exec (.fSkip b) s = .next s :=
  whenSelected_selected hw (select_of_row hrow hb)

theorem exec_fSync_of_row (hw : s.FramerWf) (hrow : rowOf .sync s.sync s.cnt.toNat) (hb : b = 0x54#8) :
    exec (.fSync b) s = .next (s.setFramer true 1#6 [(0, b)]) :=
  whenSelected_selected hw (select_of_row hrow hb)

theorem exec_fLenok_of_row (hw : s.FramerWf) (hrow : rowOf .lenok s.sync s.cnt.toNat) (hb : b = 0x2C#8) :
    exec (.fLenok b) s = .next (appendByte b s) :=
  whenSelected_selected hw (select_of_row hrow hb)

theorem exec_fDesync_of_row (hw : s.FramerWf) (hrow : rowOf .desync s.sync s.cnt.toNat) (hb : b ≠ 0x2C#8) :
    exec (.fDesync b) s = .next (s.toIdle.drop .desync) :=
  whenSelected_selected hw (select_of_row hrow hb)

theorem exec_fAppend_of_row (hw : s.FramerWf) (hrow : rowOf .append s.sync s.cnt.toNat) :
    exec (.fAppend b) s = .next (appendByte b s) :=
  whenSelected_selected hw (select_of_row hrow trivial)

end Rows

/-- The cursor does not wrap: a well-formed state holds at most 46 bytes. -/
theorem State.FramerWf.cnt_succ_toNat {s : State} (hw : s.FramerWf) : (s.cnt + 1#6).toNat = s.cnt.toNat + 1 := by
  have hle : s.cnt.toNat ≤ 46 := by
    obtain ⟨-, hc⟩ | ⟨-, hc⟩ | ⟨-, -, hc⟩ | ⟨-, hc⟩ := hw.cases
    · simp [hc]
    · simp [hc]
    · omega
    · simp [hc]
  rw [BitVec.toNat_add, BitVec.toNat_ofNat]
  omega

/-- R24 (d): the offsets that have a value are those below the cursor. -/
theorem State.FramerWf.buf_offsets {s : State} (hw : s.FramerWf) : s.buf.map Prod.fst = List.range s.cnt.toNat := by
  obtain ⟨-, -, -, hkeys⟩ := hw
  exact hkeys

/-- Where the Framer is accumulating, an append writes the cursor and the buffer only. -/
theorem appendByte_of_sync {s : State} (hs : s.sync = true) (b : Byte) :
    appendByte b s = { s with cnt := s.cnt + 1#6, buf := s.buf.write s.cnt.toNat b } := by
  rw [appendByte, State.setFramer, hs]

/-- What a well-formed Framer holds after the marker alone. -/
theorem State.FramerWf.buf_of_cnt_one {s : State} (hw : s.FramerWf) (hs : s.sync = true) (hc : s.cnt = 1#6) :
    s.buf = [(0, 0x54#8)] := by
  have hkeys := hw.buf_offsets
  rw [hc] at hkeys
  obtain ⟨-, hacc, -, -⟩ := hw
  obtain ⟨-, -, hmarker⟩ := hacc hs
  obtain ⟨⟨k, v⟩, hbuf⟩ : ∃ c, s.buf = [c] := List.length_eq_one_iff.mp (by simpa using congrArg List.length hkeys)
  obtain rfl : k = 0 := by simpa [hbuf, List.range_succ] using hkeys
  obtain rfl : v = 0x54#8 := by simpa [hbuf, Memory.read_cons] using hmarker
  exact hbuf

/-- Settles O13: the write is above every listed offset, and the cursor is below 46. -/
theorem appendWritesOneByteAtCursor : Obligations.AppendWritesOneByteAtCursor := by
  unfold Obligations.AppendWritesOneByteAtCursor
  intro s b hw hs h2 h45
  have hnext := exec_fAppend_of_row (b := b) hw ⟨hs, h2, h45⟩
  rw [appendByte_of_sync hs] at hnext
  exact ⟨_, hnext, rfl, hw.cnt_succ_toNat, Memory.bytes_after_append b hw.buf_offsets, Memory.read_write_same _ _ _,
    fun _ ha => Memory.read_write_other _ _ ha⟩

/-- Settles O14: the frame of the 46 bytes held and this one, and what `emitFrame` does with it. -/
theorem emitDecodesFrameAndReturnsToIdle : Obligations.EmitDecodesFrameAndReturnsToIdle := by
  unfold Obligations.EmitDecodesFrameAndReturnsToIdle
  intro s b hw hs hc
  obtain ⟨f, hbytes, hnext⟩ := exec_fEmit_of_full hw hs hc b
  rw [emitFrame_eq] at hnext
  exact ⟨_, f, hnext, hbytes, rfl, rfl, rfl, rfl, rfl, rfl, rfl⟩

/-- Settles O9: Idle and not the marker is the row of `F.SKIP`, whose effect is the identity. -/
theorem skipLeavesIdleBlockUnchanged : Obligations.SkipLeavesIdleBlockUnchanged := by
  unfold Obligations.SkipLeavesIdleBlockUnchanged
  exact fun s b hw hs hc hb => exec_fSkip_of_row hw ⟨hs, congrArg BitVec.toNat hc⟩ hb

/-- Settles O10: the buffer written is the one byte, which is the marker. -/
theorem syncStartsAccumulatingWithMarker : Obligations.SyncStartsAccumulatingWithMarker := by
  unfold Obligations.SyncStartsAccumulatingWithMarker
  rintro s b hw hs hc rfl
  exact exec_fSync_of_row hw ⟨hs, congrArg BitVec.toNat hc⟩ rfl

/-- Settles O11: the append at cursor 1 of a buffer that holds the marker alone. -/
theorem lenokAppendsLengthSentinel : Obligations.LenokAppendsLengthSentinel := by
  unfold Obligations.LenokAppendsLengthSentinel
  rintro s b hw hs hc rfl
  rw [exec_fLenok_of_row hw ⟨hs, congrArg BitVec.toNat hc⟩ rfl, appendByte_of_sync hs, hw.buf_of_cnt_one hs hc, hc]
  rfl

/-- Settles O12: the second byte is consumed by the drop, whichever byte it is. -/
theorem desyncDiscardsBufferAndByte : Obligations.DesyncDiscardsBufferAndByte := by
  unfold Obligations.DesyncDiscardsBufferAndByte
  exact fun s b hw hs hc hb => exec_fDesync_of_row hw ⟨hs, congrArg BitVec.toNat hc⟩ hb

end Sys2Proof.Machine
end

section
/-! Proofs about the checksum operations (41_crc.md R121, R122): one update is one look-up in the table, and `CRC.CALC`
is the updates over its bytes, which move the accumulator only. -/

namespace Sys2Proof.Machine

/-- The mask of R121 keeps all eight bits of a byte. -/
theorem CrcTable.update_eq_getElem (t : CrcTable) (acc b : Byte) : t.update acc b = t[(acc ^^^ b).toNat] := by
  have hmask : (acc ^^^ b) &&& 0xFF#8 = acc ^^^ b := BitVec.and_allOnes
  rw [CrcTable.update, hmask, CrcTable.entry]

/-- R122 from the last byte: what is folded over first is the checksum of the bytes before it. -/
theorem CrcTable.crc8_concat (t : CrcTable) (m : List Byte) (b : Byte) : t.crc8 (m ++ [b]) = t.update (t.crc8 m) b :=
  List.foldl_append

/-- A format-S operation that records no event is a write of the transients. -/
theorem OnlyWork.eq_setWork {s t : State} (h : OnlyWork s t) (htrace : t.trace = s.trace) : t = s.setWork t.work := by
  obtain ⟨hsync, hcnt, hbuf, hrom, hinput, hout, -⟩ := h
  rw [State.setWork, ← hsync, ← hcnt, ← hbuf, ← hrom, ← hinput, ← hout, ← htrace]

/-- R122: `CRC.CALC` writes the accumulator and nothing else. -/
theorem runCrcCalc_eq_setWork (m : List Byte) (s : State) :
    runCrcCalc m s = s.setWork { s.work with acc := s.rom.crc8 m } := by
  rw [(runCrcCalc_onlyWork m s).eq_setWork (runCrcCalc_trace m s), runCrcCalc_work]

/-- Settles O24: `CRC.CALC` writes the checksum to the accumulator, and the checksum is a fold from 0, so one more byte at
the end is one more update, a look-up in the table. -/
theorem crcCalcFoldsUpdatesFromZero : Obligations.CrcCalcFoldsUpdatesFromZero := by
  unfold Obligations.CrcCalcFoldsUpdatesFromZero
  refine ⟨fun s m => ?_, fun _ => rfl, fun t m b => ?_⟩
  · exact congrArg Host.Outcome.next (runCrcCalc_eq_setWork m s)
  · rw [CrcTable.crc8_concat, CrcTable.update_eq_getElem]

/-- Settles O23: `CRC.UPD` is one update of the accumulator, and the mask does nothing to a byte. -/
theorem crcUpdLooksUpOneEntry : Obligations.CrcUpdLooksUpOneEntry := by
  unfold Obligations.CrcUpdLooksUpOneEntry
  intro s acc b
  rw [← CrcTable.update_eq_getElem]
  rfl

end Sys2Proof.Machine
end

section
/-! Proofs about the angle operations `ANG.DIFF` and `ANG.NORM` (43_angle.md R151, R154): which branch of the span and of
the normalization the operands take. -/

namespace Sys2Proof.Machine

open Sys2Proof Sys2Proof.Claims

theorem angleSpan_of_le {sa ea : Half} (h : sa.toNat ≤ ea.toNat) : angleSpan sa ea = (ea.toNat : Int) - sa.toNat := by
  rw [angleSpan_eq_span, span, if_pos h]

/-- The 0° straddle. -/
theorem angleSpan_of_lt {sa ea : Half} (h : ea.toNat < sa.toNat) :
    angleSpan sa ea = 36000 - (sa.toNat : Int) + ea.toNat := by
  rw [angleSpan_eq_span, span, if_neg (Nat.not_le_of_lt h)]

theorem angleSpan_bounds_of_le {sa ea : Half} (h : sa.toNat ≤ ea.toNat) :
    0 ≤ angleSpan sa ea ∧ angleSpan sa ea ≤ 65535 := by
  have hea : ea.toNat < 65536 := ea.isLt
  rw [angleSpan_of_le h]
  omega

/-- The least value is that of `sa = 65535` and `ea = 0`: the fields are not checked against one turn (R156). -/
theorem angleSpan_bounds_of_lt {sa ea : Half} (h : ea.toNat < sa.toNat) :
    -29535 ≤ angleSpan sa ea ∧ angleSpan sa ea ≤ 35999 := by
  have hsa : sa.toNat < 65536 := sa.isLt
  rw [angleSpan_of_lt h]
  omega

theorem reachesFullTurn_iff (nraw : Int) : reachesFullTurn nraw = true ↔ 396000 ≤ nraw := decide_eq_true_iff

theorem angleNorm_of_le {nraw : Int} (h : 396000 ≤ nraw) : angleNorm nraw = nraw - 396000 :=
  if_pos ((reachesFullTurn_iff nraw).mpr h)

theorem angleNorm_of_lt {nraw : Int} (h : nraw < 396000) : angleNorm nraw = nraw :=
  if_neg (mt (reachesFullTurn_iff nraw).mp (Int.not_le.mpr h))

theorem exec_angDiff (sa ea : Half) (s : State) :
    exec (.angDiff sa ea) s = .next { s with work := { s.work with diff := angleSpan sa ea } } := rfl

theorem exec_angNorm (nraw : Int) (s : State) :
    exec (.angNorm nraw) s = .next { s with work := { s.work with n := angleNorm nraw } } := rfl

/-- Settles O33: the span is the one write, and its ranges follow from the two fields being 16 bits wide. -/
theorem angDiffIsSignedSpan : Obligations.AngDiffIsSignedSpan := by
  unfold Obligations.AngDiffIsSignedSpan
  intro s sa ea
  refine ⟨_, exec_angDiff sa ea s, rfl, fun hle => ?_, fun hlt => ?_⟩
  · exact ⟨angleSpan_of_le hle, angleSpan_bounds_of_le hle⟩
  · exact ⟨angleSpan_of_lt hlt, angleSpan_bounds_of_lt hlt⟩

/-- Settles O35: the test is made on the operand, before the one subtraction, and not on its result. -/
theorem angNormSubtractsOneTurnOnce : Obligations.AngNormSubtractsOneTurnOnce := by
  unfold Obligations.AngNormSubtractsOneTurnOnce
  refine fun s nraw => ⟨fun hle => ?_, fun hlt => ?_⟩
  · rw [exec_angNorm, angleNorm_of_le hle]
  · rw [exec_angNorm, angleNorm_of_lt hlt]

end Sys2Proof.Machine
end

section
/-! Proofs about the point filter, the whole decoder and `NOBYTE` (44_decode_emit.md R170, R172, R174, R182): what
`DECODE` leaves in the transients is a function of its frame and the table. -/

namespace Sys2Proof.Machine

open Sys2Proof Sys2Proof.Claims

theorem keepPoint_iff (dist : Half) (conf : Byte) :
    keepPoint dist conf = true ↔ 0 < dist.toNat ∧ 100 < conf.toNat := by
  simp [keepPoint]

theorem exec_ptFilt (dist : Half) (conf : Byte) (s : State) :
    exec (.ptFilt dist conf) s = .next (runPtFilt dist conf s) := rfl

/-- Settles O39: the two branches of the filter, each with its one write and the drop of the second. -/
theorem ptFiltKeepsStrictly : Obligations.PtFiltKeepsStrictly := by
  unfold Obligations.PtFiltKeepsStrictly
  refine fun s dist conf => ⟨fun hkeep => ?_, fun hdrop => ?_⟩
  · rw [exec_ptFilt, runPtFilt, if_pos ((keepPoint_iff dist conf).mpr hkeep)]
    rfl
  · rw [exec_ptFilt, runPtFilt, if_neg (mt (keepPoint_iff dist conf).mp hdrop)]
    rfl

theorem exec_decode (f : Frame) (s : State) : exec (.decode f) s = .next (runDecode f s) := rfl

/-- What a format-S operation that adds the events `l` leaves, field by field. -/
theorem OnlyWork.eq_of_trace {s t : State} {l : List Event} (h : OnlyWork s t) (htrace : t.trace = s.trace ++ l) :
    t = { s with work := t.work, trace := s.trace ++ l } := by
  obtain ⟨hsync, hcnt, hbuf, hrom, hinput, hout, -⟩ := h
  rw [← hsync, ← hcnt, ← hbuf, ← hrom, ← hinput, ← hout, ← htrace]

/-- Settles O40: the Samples and the drops of the sequence, and its frame. -/
theorem decodeYieldsSamplesOfFrame : Obligations.DecodeYieldsSamplesOfFrame := by
  unfold Obligations.DecodeYieldsSamplesOfFrame
  intro s f
  obtain ⟨hsamples, hevents⟩ := runDecode_spec f s
  exact ⟨_, exec_decode f s, hsamples, (runDecode_onlyWork f s).eq_of_trace hevents⟩

theorem runCrcChk_work (computed received : Byte) (s : State) :
    (runCrcChk computed received s).work =
      if crcMatches computed received then { s.work with crcOk := true }
      else { s.work with crcOk := false, samples := [] } := by
  unfold runCrcChk
  split <;> rfl

section Congruence

variable {s s' : State}

/-- Steps 1 and 2 start on fresh transients, so of the state they read the table only. -/
theorem runCheck_work_congr (hrom : s.rom = s'.rom) (f : Frame) : (runCheck f s).work = (runCheck f s').work := by
  simp only [runCheck, runCrcChk_work, runLdU8, State.setWork_work, runCrcCalc_work, State.setWork_rom, hrom]

/-- Steps 3 and 4 read the transients only. -/
theorem runSpan_work_congr (hwork : s.work = s'.work) (f : Frame) : (runSpan f s).work = (runSpan f s').work := by
  simp only [runSpan, runAngDiff, runLdU16le, State.setWork_work, hwork]

/-- One turn of the loop reads the transients only. -/
theorem runPoint_work_congr (hwork : s.work = s'.work) (f : Frame) (i : Fin 12) :
    (runPoint f s i).work = (runPoint f s' i).work := by
  simp only [runPoint, emitIfKept_work, runPtFilt_work, runAngNorm, runAngRaw, runLdU8, runLdU16le,
    State.setWork_work, hwork]

theorem runPoints_work_congr (hwork : s.work = s'.work) (f : Frame) (l : List (Fin 12)) :
    (l.foldl (runPoint f) s).work = (l.foldl (runPoint f) s').work := by
  induction l generalizing s s' with
  | nil => exact hwork
  | cons i l ih => exact ih (runPoint_work_congr hwork f i)

/-- R174: no transient of an earlier `DECODE` and no Framer state survives into the transients of this one. -/
theorem runDecode_work_congr (hrom : s.rom = s'.rom) (f : Frame) : (runDecode f s).work = (runDecode f s').work := by
  have hcheck := runCheck_work_congr hrom f
  simp only [runDecode, hcheck]
  split
  · exact runPoints_work_congr (runSpan_work_congr hcheck f) f pointOrder
  · exact hcheck

end Congruence

/-- Settles O42: the transients and the events are functions of the frame and the table, and the first run leaves the
table as it was. -/
theorem decodeIsPureAndIdempotent : Obligations.DecodeIsPureAndIdempotent := by
  unfold Obligations.DecodeIsPureAndIdempotent
  intro s s' f hrom
  have hagain : (runDecode f s).rom = s.rom := (runDecode_onlyWork f s).rom
  obtain ⟨-, hevents⟩ := runDecode_spec f s
  obtain ⟨-, hevents'⟩ := runDecode_spec f s'
  obtain ⟨-, hevents''⟩ := runDecode_spec f (runDecode f s)
  rw [← hrom] at hevents'
  rw [hagain] at hevents''
  exact ⟨_, _, _, exec_decode f s, exec_decode f s', exec_decode f _, runDecode_work_congr hrom f,
    runDecode_work_congr hagain f, drops s.rom f, hevents, hevents', hevents''⟩

/-- Settles O45: the meaning of `NOBYTE` is to answer its state. -/
theorem nobyteIsTheIdentity : Obligations.NobyteIsTheIdentity := by
  unfold Obligations.NobyteIsTheIdentity
  exact fun _ => rfl

end Sys2Proof.Machine
end

section
/-! What the byte of one step does, said once: a format-B operation, and so a PUSH, is a function of `sync`, `cnt`, `buf`,
the table and the byte, and writes the Framer, the transients and the ends of the two records (10_state.md R20,
44_decode_emit.md R181). -/

namespace Sys2Proof.Machine

open Sys2Proof Sys2Proof.Claims

/-- What a byte's step writes: the Framer as it is afterwards, whether a `DECODE` ran, and what it adds to the output and to
the event history. -/
structure ByteEffect where
  sync : Bool
  cnt : BitVec 6
  buf : Memory
  decodes : Bool
  samples : List Sample
  events : List Event

/-- The effect put on a state. -/
def ByteEffect.on (e : ByteEffect) (s : State) : State :=
  { s with
    sync := e.sync, cnt := e.cnt, buf := e.buf
    work := if e.decodes then Work.fresh else s.work
    out := s.out ++ e.samples, trace := s.trace ++ e.events }

/-- The effect of each operation of 30_encoding.md R75 in the Framer state of `s` (40_framer.md R101 to R106);
`exec_framer_eq_next_iff` ties it to `exec`. -/
inductive FramerEffect (s : State) (b : Byte) : FramerOp → ByteEffect → Prop
  | skip : FramerEffect s b .skip ⟨s.sync, s.cnt, s.buf, false, [], []⟩
  | sync : FramerEffect s b .sync ⟨true, 1#6, [(0, b)], false, [], []⟩
  | lenok : FramerEffect s b .lenok ⟨true, s.cnt + 1#6, s.buf.write s.cnt.toNat b, false, [], []⟩
  | desync : FramerEffect s b .desync ⟨false, 0#6, [], false, [], [.desync]⟩
  | append : FramerEffect s b .append ⟨true, s.cnt + 1#6, s.buf.write s.cnt.toNat b, false, [], []⟩
  | emit (f : Frame) (hf : f.toList = s.buf.bytes ++ [b]) :
      FramerEffect s b .emit ⟨false, 0#6, [], true, output s.rom f, emitEvents s.rom f⟩

/-- An effect that adds nothing to the records and runs no `DECODE` is a write of the Framer. -/
theorem ByteEffect.on_silent (sync : Bool) (cnt : BitVec 6) (buf : Memory) (s : State) :
    ByteEffect.on ⟨sync, cnt, buf, false, [], []⟩ s = s.setFramer sync cnt buf := by
  simp [ByteEffect.on, State.setFramer]

/-- What the selected operation answers is its effect, and it has one. -/
theorem exec_framer_of_row {s : State} {b : Byte} {op : FramerOp} (hw : s.FramerWf)
    (hrow : rowOf op s.sync s.cnt.toNat) (hb : byteOf op b) :
    ∃ e, FramerEffect s b op e ∧ exec (op.instr b) s = .next (e.on s) := by
  cases op with
  | skip => exact ⟨_, .skip, by rw [ByteEffect.on_silent]; exact exec_fSkip_of_row hw hrow hb⟩
  | sync => exact ⟨_, .sync, by rw [ByteEffect.on_silent]; exact exec_fSync_of_row hw hrow hb⟩
  | lenok => exact ⟨_, .lenok, by rw [ByteEffect.on_silent]; exact exec_fLenok_of_row hw hrow hb⟩
  | desync =>
    refine ⟨_, .desync, (exec_fDesync_of_row hw hrow hb).trans ?_⟩
    simp [ByteEffect.on, State.drop, State.record, State.toIdle, State.setFramer]
  | append => exact ⟨_, .append, by rw [ByteEffect.on_silent]; exact exec_fAppend_of_row hw hrow⟩
  | emit =>
    obtain ⟨hs, hc⟩ := hrow
    obtain ⟨f, hf, hexec⟩ := exec_fEmit_of_full hw hs (BitVec.eq_of_toNat_eq hc) b
    exact ⟨_, .emit f hf, by rw [FramerOp.instr, hexec, emitFrame_eq]; rfl⟩

/-- The effect is one for each operation: the frame of an `F.EMIT` is fixed by its bytes. -/
theorem FramerEffect.unique {s : State} {b : Byte} {op : FramerOp} {e e' : ByteEffect}
    (h : FramerEffect s b op e) (h' : FramerEffect s b op e') : e = e' := by
  cases h with
  | skip | sync | lenok | desync | append => cases h'; rfl
  | emit f hf =>
    cases h' with
    | emit g hg => rw [Vector.toList_inj.mp (hf.trans hg.symm)]

/-- Everything a format-B operation can answer. -/
theorem exec_framer_eq_next_iff {s t : State} {b : Byte} {op : FramerOp} :
    exec (op.instr b) s = .next t ↔
      s.FramerWf ∧ rowOf op s.sync s.cnt.toNat ∧ byteOf op b ∧ ∃ e, FramerEffect s b op e ∧ t = e.on s := by
  constructor
  · intro h
    obtain ⟨o, ho⟩ := exec_framer_gated op b s
    obtain ⟨hw, hsel, -⟩ := whenSelected_eq_next_iff.mp (ho ▸ h)
    obtain ⟨hrow, hb⟩ := (hw.select_eq_some_iff b op).mp hsel
    obtain ⟨e, he, hexec⟩ := exec_framer_of_row hw hrow hb
    exact ⟨hw, hrow, hb, e, he, Host.Outcome.next.inj (h.symm.trans hexec)⟩
  · rintro ⟨hw, hrow, hb, e, he, rfl⟩
    obtain ⟨e', he', hexec⟩ := exec_framer_of_row hw hrow hb
    rw [he.unique he', hexec]

/-- In an ill-formed state PUSH is refused: it either selects nothing, or an operation that is refused itself. -/
theorem exec_push_of_illFormed {s : State} (hw : ¬ s.FramerWf) (b : Byte) :
    exec (.push b) s = .refused .illFormedFramerState := by
  cases hsel : select s.sync s.cnt b with
  | none => simp only [exec, execPush, hsel]
  | some op =>
    obtain ⟨o, ho⟩ := exec_framer_gated op b s
    rw [exec_push_of_select hsel, ho, whenSelected_illFormed hw]

/-- Everything a PUSH can answer. -/
theorem exec_push_eq_next_iff {s t : State} {b : Byte} :
    exec (.push b) s = .next t ↔
      s.FramerWf ∧ ∃ op e, rowOf op s.sync s.cnt.toNat ∧ byteOf op b ∧ FramerEffect s b op e ∧ t = e.on s := by
  constructor
  · intro h
    by_cases hw : s.FramerWf
    · obtain ⟨op, hsel⟩ := hw.exists_select b
      rw [exec_push_of_select hsel] at h
      obtain ⟨-, hrow, hb, e, he, ht⟩ := exec_framer_eq_next_iff.mp h
      exact ⟨hw, op, e, hrow, hb, he, ht⟩
    · rw [exec_push_of_illFormed hw] at h
      cases h
  · rintro ⟨hw, op, e, hrow, hb, he, ht⟩
    rw [exec_push_of_select (select_of_row hrow hb)]
    exact exec_framer_eq_next_iff.mpr ⟨hw, hrow, hb, e, he, ht⟩

/-- The states that agree on all that a byte's step reads: the triple of 10_state.md R20 and the table. -/
structure SameCore (s s' : State) : Prop where
  sync : s'.sync = s.sync
  cnt : s'.cnt = s.cnt
  buf : s'.buf = s.buf
  rom : s'.rom = s.rom

theorem SameCore.framerWf_iff {s s' : State} (h : SameCore s s') : s'.FramerWf ↔ s.FramerWf := by
  simp only [State.FramerWf, h.sync, h.cnt, h.buf]

theorem SameCore.effect {s s' : State} (h : SameCore s s') {b : Byte} {op : FramerOp} {e : ByteEffect}
    (he : FramerEffect s b op e) : FramerEffect s' b op e := by
  cases he with
  | skip => rw [← h.sync, ← h.cnt, ← h.buf]; exact .skip
  | sync => exact .sync
  | lenok => rw [← h.cnt, ← h.buf]; exact .lenok
  | desync => exact .desync
  | append => rw [← h.cnt, ← h.buf]; exact .append
  | emit f hf => rw [← h.rom]; exact .emit f (h.buf ▸ hf)

/-- A format-B operation reads the Framer, the table and its byte, and nothing else. -/
theorem SameCore.exec_framer {s s' : State} (h : SameCore s s') {b : Byte} {op : FramerOp} {t : State}
    (ht : exec (op.instr b) s = .next t) :
    ∃ e, FramerEffect s b op e ∧ t = e.on s ∧ exec (op.instr b) s' = .next (e.on s') := by
  obtain ⟨hw, hrow, hb, e, he, ht⟩ := exec_framer_eq_next_iff.mp ht
  refine ⟨e, he, ht, exec_framer_eq_next_iff.mpr ⟨h.framerWf_iff.mpr hw, ?_, hb, e, h.effect he, rfl⟩⟩
  rw [h.sync, h.cnt]
  exact hrow

/-- So does PUSH. -/
theorem SameCore.exec_push {s s' : State} (h : SameCore s s') {b : Byte} {t : State} (ht : exec (.push b) s = .next t) :
    ∃ op e, FramerEffect s b op e ∧ t = e.on s ∧ exec (.push b) s' = .next (e.on s') := by
  obtain ⟨hw, op, e, hrow, hb, he, ht⟩ := exec_push_eq_next_iff.mp ht
  refine ⟨op, e, he, ht, exec_push_eq_next_iff.mpr ⟨h.framerWf_iff.mpr hw, op, e, ?_, hb, h.effect he, rfl⟩⟩
  rw [h.sync, h.cnt]
  exact hrow

theorem output_length_le (t : CrcTable) (f : Frame) : (output t f).length ≤ 12 := by
  unfold output
  split
  · calc (samples f).length = ((List.finRange 12).filter (kept f)).length := List.length_map _
      _ ≤ (List.finRange 12).length := List.length_filter_le _ _
      _ = 12 := List.length_finRange
  · exact Nat.zero_le _

/-- Output comes from `F.EMIT` only, and is the points of one frame. -/
theorem FramerEffect.samples_bound {s : State} {b : Byte} {op : FramerOp} {e : ByteEffect} (h : FramerEffect s b op e) :
    e.samples.length ≤ 12 ∧ (e.samples ≠ [] → op = .emit) := by
  cases h with
  | skip | sync | lenok | desync | append => exact ⟨Nat.zero_le _, fun hne => absurd rfl hne⟩
  | emit f hf => exact ⟨output_length_le _ _, fun _ => rfl⟩

theorem State.FramerWf.cnt_zero_buf_nil {s : State} (hw : s.FramerWf) (hs : s.sync = false) :
    s.cnt = 0#6 ∧ s.buf = [] := by
  obtain ⟨hzero, -, -, hkeys⟩ := hw
  have hc := hzero.mp hs
  rw [hc] at hkeys
  exact ⟨hc, List.map_eq_nil_iff.mp hkeys⟩

/-- R24 is kept by what a byte's step writes. -/
theorem FramerEffect.framerWf {s : State} {b : Byte} {op : FramerOp} {e : ByteEffect} (h : FramerEffect s b op e)
    (hw : s.FramerWf) (hrow : rowOf op s.sync s.cnt.toNat) (hb : byteOf op b) : (e.on s).FramerWf := by
  cases h with
  | skip => rw [ByteEffect.on_silent]; exact hw
  | sync =>
    obtain rfl : b = 0x54#8 := hb
    simp [ByteEffect.on, State.FramerWf, Memory.read_cons, List.range_succ]
  | lenok =>
    obtain rfl : b = 0x2C#8 := hb
    obtain ⟨hs, hc⟩ := hrow
    have hc : s.cnt = 1#6 := BitVec.eq_of_toNat_eq hc
    simp [ByteEffect.on, hc, hw.buf_of_cnt_one hs hc, State.FramerWf, Memory.write, Memory.read_cons, List.range_succ]
  | append =>
    obtain ⟨hs, h2, h45⟩ := hrow
    rw [ByteEffect.on_silent]
    exact appendByte_framerWf b hw hs h2 h45
  | desync | emit f hf => exact framerWf_of_idle rfl rfl rfl

theorem exec_framer_keeps_framerWf {s t : State} {b : Byte} {op : FramerOp} (h : exec (op.instr b) s = .next t) :
    t.FramerWf := by
  obtain ⟨hw, hrow, hb, e, he, rfl⟩ := exec_framer_eq_next_iff.mp h
  exact he.framerWf hw hrow hb

end Sys2Proof.Machine
end

section
/-! Proofs about the invariant of a step boundary (10_state.md section 1): no host item breaks it or stops the block. -/

namespace Sys2Proof.Machine

open Sys2Proof Sys2Proof.Claims

theorem State.FramerWf.cnt_le {s : State} (hw : s.FramerWf) : s.cnt.toNat ≤ 46 := by
  obtain ⟨-, hc⟩ | ⟨-, hc⟩ | ⟨-, -, hc⟩ | ⟨-, hc⟩ := hw.cases
  · simp [hc]
  · simp [hc]
  · omega
  · simp [hc]

/-- The canonical form of the buffer (20_memory.md R40) follows from R24 (d) and the bound of the cursor. -/
theorem State.FramerWf.buf_wf {s : State} (hw : s.FramerWf) : s.buf.wf := by
  unfold Memory.wf
  rw [hw.buf_offsets]
  refine ⟨List.pairwise_lt_range, fun a ha => ?_⟩
  calc a < s.cnt.toNat := List.mem_range.mp ha
    _ ≤ 46 := hw.cnt_le
    _ < 47 := by decide

/-- A byte's step leaves the table alone, and the transients fresh where they were fresh. -/
theorem ByteEffect.on_inv {e : ByteEffect} {s : State} (hi : Inv s) (hw : (e.on s).FramerWf) : Inv (e.on s) where
  framer := hw
  memory := hw.buf_wf
  table := hi.table
  transients := by simp only [ByteEffect.on, hi.transients, ite_self]

/-- Taking items from the host's list or adding some moves no part of the invariant. -/
theorem setInput_inv {s : State} (hi : Inv s) (l : List HostItem) : Inv (s.setInput l) := by
  obtain ⟨hw, hm, ht, hf⟩ := hi
  exact ⟨hw, hm, ht, hf⟩

/-- The invariant is kept by each of the four host items. -/
theorem exec_hostItem_keeps_inv {s t : State} (item : HostItem) (hi : Inv s) (h : exec item.instr s = .next t) :
    Inv t := by
  cases item with
  | push b =>
    obtain ⟨hw, op, e, hrow, hb, he, rfl⟩ := exec_push_eq_next_iff.mp h
    exact ByteEffect.on_inv hi (he.framerWf hw hrow hb)
  | noByte => cases h; exact hi
  | reset => cases h; exact ⟨framerWf_of_idle rfl rfl rfl, Memory.nil_wf, hi.table, hi.transients⟩
  | frame a => cases h; exact setInput_inv hi _

theorem step_of_input_nil {s : State} (h : s.input = []) : step s = exec .nobyte s := by
  rw [step, State.fetch_nil h]

theorem step_of_input_cons {s : State} {item : HostItem} {rest : List HostItem} (h : s.input = item :: rest) :
    step s = exec item.instr (s.setInput rest) := by
  rw [step, State.fetch_cons h]

/-- Settles O3: with nothing pending the step is the identity, and every item taken keeps the invariant. -/
theorem stepKeepsInvariant : Obligations.StepKeepsInvariant := by
  unfold Obligations.StepKeepsInvariant
  intro s t hi h
  cases hin : s.input with
  | nil =>
    rw [step_of_input_nil hin] at h
    cases h
    exact hi
  | cons item rest =>
    rw [step_of_input_cons hin] at h
    exact exec_hostItem_keeps_inv item (setInput_inv hi rest) h

theorem State.FramerWf.exec_push_runs {s : State} (hw : s.FramerWf) (b : Byte) : Runs (exec (.push b) s) := by
  obtain ⟨op, hsel⟩ := hw.exists_select b
  rw [exec_push_of_select hsel]
  exact exec_runs_of_selected hw hsel

theorem State.FramerWf.exec_hostItem_runs {s : State} (hw : s.FramerWf) (item : HostItem) :
    Runs (exec item.instr s) := by
  cases item with
  | push b => exact hw.exec_push_runs b
  | noByte | reset | frame a => exact ⟨_, rfl⟩

/-- Settles O4: each host item runs in a well-formed state, and so does the step that finds none. -/
theorem stepNeverStops : Obligations.StepNeverStops := by
  unfold Obligations.StepNeverStops
  intro s hw
  cases hin : s.input with
  | nil => exact ⟨s, step_of_input_nil hin⟩
  | cons item rest =>
    rw [step_of_input_cons hin]
    exact State.FramerWf.exec_hostItem_runs (s := s.setInput rest) hw item

/-- Settles O5: one clause for each host item, and one for none. -/
theorem stepRunsNextHostItem : Obligations.StepRunsNextHostItem := by
  unfold Obligations.StepRunsNextHostItem
  exact ⟨fun _ _ _ h => step_of_input_cons h, fun _ _ h => step_of_input_cons h, fun _ _ h => step_of_input_cons h,
    fun _ _ _ h => step_of_input_cons h, fun _ h => step_of_input_nil h⟩

end Sys2Proof.Machine
end

section
/-! Proofs about the byte decoder and the words of the opcode table (30_encoding.md section 3): what is decoded is what runs. -/

namespace Sys2Proof.Machine

open Sys2Proof Sys2Proof.Claims

/-- The byte decoder reads the selected operation on the first byte. -/
theorem decodeByte_cons_eq_ok_iff {sync : Bool} {cnt : BitVec 6} {b : Byte} {l rest : List Byte} {i : Instr} :
    decodeByte sync cnt (b :: l) = .ok (i, rest) ↔
      ∃ op, select sync cnt b = some op ∧ i = op.instr b ∧ rest = l := by
  cases hsel : select sync cnt b with
  | none => simp [decodeByte, hsel]
  | some op => simp [decodeByte, hsel, eq_comm]

/-- Settles O6: the decoder and PUSH go by the same select. -/
theorem stepRunsDecodedInstruction : Obligations.StepRunsDecodedInstruction := by
  unfold Obligations.StepRunsDecodedInstruction
  intro s b rest i more hin hdec
  obtain ⟨op, hsel, rfl, -⟩ := decodeByte_cons_eq_ok_iff.mp hdec
  exact ⟨select_wf hsel, (step_of_input_cons hin).trans (exec_push_of_select (s := s.setInput rest) hsel)⟩

/-- The Framer state in which a word of one byte is placed is the one in which the table decoder reads it. -/
theorem State.selectFor_context (s : State) (b : Byte) :
    ((s.selectFor b).sync, (s.selectFor b).cnt) = tableContext b := by
  unfold State.selectFor
  split
  · assumption
  · unfold tableContext
    split <;> rfl

/-- An item put before the others is the next to run. -/
theorem step_offerItem (s : State) (item : HostItem) :
    step (s.offerItem item) = exec item.instr { s.offerItem item with input := s.input } := step_of_input_cons rfl

theorem State.selectFor_input (s : State) (b : Byte) : (s.selectFor b).input = s.input := by
  unfold State.selectFor
  split
  · rfl
  · split <;> rfl

/-- What the table decoder reads: up to 8 bits, the operation selected in the byte's own Framer state; more, a FRAME. -/
theorem decodeTableWord_cases {nbits w : Nat} {i : Instr} (h : decodeTableWord nbits w = some i) :
    (nbits ≤ 8 ∧ ∃ op, i = op.instr (wordByte nbits w 0) ∧
      select (tableContext (wordByte nbits w 0)).1 (tableContext (wordByte nbits w 0)).2 (wordByte nbits w 0) = some op) ∨
    (¬ nbits ≤ 8 ∧ ∃ args rest, i = .frame args ∧ decodeFrame (wordBytes nbits w) = .ok (args, rest)) := by
  unfold decodeTableWord at h
  split at h
  · next hbyte =>
    split at h
    · next i' rest hok =>
      obtain rfl := Option.some.inj h
      obtain ⟨op, hsel, hi, -⟩ := decodeByte_cons_eq_ok_iff.mp hok
      exact .inl ⟨hbyte, op, hi, hsel⟩
    · cases h
  · next hlong =>
    split at h
    · next args rest hok => exact .inr ⟨hlong, args, rest, (Option.some.inj h).symm, hok⟩
    · cases h

theorem State.withFetchWord_of_byte (s : State) {nbits w : Nat} (h : nbits ≤ 8) :
    s.withFetchWord nbits w = (s.selectFor (wordByte nbits w 0)).offerItem (.push (wordByte nbits w 0)) := if_pos h

theorem State.withFetchWord_of_frame (s : State) {nbits w : Nat} (h : ¬ nbits ≤ 8) {args : FrameArgs} {rest : List Byte}
    (hok : decodeFrame (wordBytes nbits w) = .ok (args, rest)) :
    s.withFetchWord nbits w = s.offerItem (.frame args) := by
  rw [State.withFetchWord, State.offerWord, if_neg h, hok]

/-- Settles O7: a word of up to 8 bits is a PUSH in the state in which its byte was decoded, a longer one a FRAME item. -/
theorem fetchedTableWordRunsNext : Obligations.FetchedTableWordRunsNext := by
  unfold Obligations.FetchedTableWordRunsNext
  intro s nbits w i hdec
  obtain ⟨hbyte, op, rfl, hsel⟩ | ⟨hlong, args, rest, rfl, hok⟩ := decodeTableWord_cases hdec
  · rw [State.withFetchWord_of_byte s hbyte, step_offerItem, State.selectFor_input]
    rw [← State.selectFor_context s] at hsel
    exact exec_push_of_select hsel
  · rw [State.withFetchWord_of_frame s hlong hok]
    exact step_offerItem s (.frame args)

/-- Settles O52: the one byte of a format-B instruction lies in the row that its well-formedness and its Framer state name. -/
theorem framerDecodeOfEncode : Obligations.FramerDecodeOfEncode := by
  unfold Obligations.FramerDecodeOfEncode
  intro op b t sync cnt rest hwf hrow
  have hb : byteOf op b := by
    cases op with
    | skip | sync | lenok | desync => simpa [FramerOp.instr, Instr.wf, byteOf] using hwf
    | append | emit => trivial
  have henc : encode t (op.instr b) = some [b] := by cases op <;> rfl
  exact ⟨[b], henc, decodeByte_cons_eq_ok_iff.mpr ⟨op, select_of_row hrow hb, rfl, rfl⟩⟩

end Sys2Proof.Machine
end

section
/-! Proofs about the Framer operations and the host's operations on any state: where they are refused, what they leave in
the cursor and the flag, and what they depend on. -/

namespace Sys2Proof.Machine

open Sys2Proof Sys2Proof.Claims

/-- Settles O15: the gate of the format-B operations refuses by name, and PUSH is behind it too. -/
theorem unselectedOrIllFormedIsRefused : Obligations.UnselectedOrIllFormedIsRefused := by
  unfold Obligations.UnselectedOrIllFormedIsRefused
  refine ⟨fun s b op hw hne => ?_, fun s b op hw => ?_, fun s b hw => exec_push_of_illFormed hw b⟩
  · obtain ⟨op', hsel⟩ := hw.exists_select b
    obtain ⟨o, ho⟩ := exec_framer_gated op b s
    rw [ho]
    exact whenSelected_other hw hsel fun heq => hne (heq ▸ hsel)
  · obtain ⟨o, ho⟩ := exec_framer_gated op b s
    rw [ho]
    exact whenSelected_illFormed hw

/-- Settles O16: the cursor and the flag of each effect; an append starts from at most 46 bytes. -/
theorem framerOperationsSetCursorAndFlag : Obligations.FramerOperationsSetCursorAndFlag := by
  unfold Obligations.FramerOperationsSetCursorAndFlag
  intro op b s t h
  obtain ⟨hw, hrow, -, e, he, rfl⟩ := exec_framer_eq_next_iff.mp h
  cases he with
  | skip => exact ⟨hrow.2, rfl⟩
  | sync | desync | emit f hf => exact ⟨rfl, rfl⟩
  | lenok | append => exact ⟨hw.cnt_succ_toNat, hrow.1.symm⟩

/-- Settles O44: the operation of the row that the state and the byte are in. -/
theorem pushRunsSelectedOperation : Obligations.PushRunsSelectedOperation := by
  unfold Obligations.PushRunsSelectedOperation
  intro s b hw
  obtain ⟨op, hrow, hb⟩ := hw.exists_row b
  obtain ⟨e, he, hexec⟩ := exec_framer_of_row hw hrow hb
  have hsel := select_of_row hrow hb
  obtain ⟨hlen, honly⟩ := he.samples_bound
  exact ⟨op, e.on s, e.samples, hsel, (exec_push_of_select hsel).trans hexec, hexec, rfl, hlen, honly, rfl, rfl⟩

/-- Settles O57: the effect is the same, and it is put on two states. -/
theorem byteEffectDependsOnTripleAndTable : Obligations.ByteEffectDependsOnTripleAndTable := by
  unfold Obligations.ByteEffectDependsOnTripleAndTable
  intro s s' t b hsync hcnt hbuf hrom ht
  obtain ⟨-, e, -, rfl, hexec⟩ := SameCore.exec_push ⟨hsync, hcnt, hbuf, hrom⟩ ht
  exact ⟨e.on s', e.samples, e.events, hexec, rfl, rfl, rfl, rfl, rfl, rfl, rfl, rfl, rfl, rfl, rfl⟩

/-- Settles O46: the meaning of RESET is one write of the Framer. -/
theorem resetReturnsToIdleFromAnyState : Obligations.ResetReturnsToIdleFromAnyState := by
  unfold Obligations.ResetReturnsToIdleFromAnyState
  exact fun _ => rfl

end Sys2Proof.Machine
end

section
/-! Proofs about the layout of a FRAME (30_encoding.md R61, R82): its 47 bytes, read back at their offsets, are its
arguments, and a frame is fixed by its sentinels and its arguments. -/

namespace Sys2Proof.Machine

open Sys2Proof Sys2Proof.Claims

/-- The 47 bytes of a FRAME as the frame they are. -/
def frameOfArgs (t : CrcTable) (a : FrameArgs) : Frame :=
  ⟨(a.bytes t).toArray, by simpa using FrameArgs.bytes_length t a⟩

theorem frameOfArgs_toList (t : CrcTable) (a : FrameArgs) : (frameOfArgs t a).toList = a.bytes t := rfl

/-! ### Reading the list of bytes at an offset -/

/-- Point records are three bytes each, one after the other. -/
theorem flatMap_pointBytes_getElem? (l : List Point) (i j : Nat) (hj : j < 3) :
    (l.flatMap Point.bytes)[3 * i + j]? = l[i]?.bind fun p => p.bytes[j]? := by
  induction l generalizing i with
  | nil => rfl
  | cons p l ih =>
    have hlen : p.bytes.length = 3 := rfl
    cases i with
    | zero => rw [List.flatMap_cons, List.getElem?_append_left (by omega), Nat.mul_zero, Nat.zero_add]; rfl
    | succ i =>
      rw [List.flatMap_cons, List.getElem?_append_right (by omega), hlen,
        show 3 * (i + 1) + j - 3 = 3 * i + j by omega, ih, List.getElem?_cons_succ]

/-- A FRAME's bytes: the header, the point records, the footer. -/
theorem FrameArgs.bytes_eq (t : CrcTable) (a : FrameArgs) :
    a.bytes t = [0x54#8, 0x2C#8, loByte a.spd, hiByte a.spd, loByte a.sa, hiByte a.sa] ++
      (a.pts.toList.flatMap Point.bytes ++
        [loByte a.ea, hiByte a.ea, loByte a.ts, hiByte a.ts, a.crcByte t]) := by
  simp [FrameArgs.bytes, FrameArgs.body]

theorem pointRecords_length (a : FrameArgs) : (a.pts.toList.flatMap Point.bytes).length = 36 := by
  have h := FrameArgs.body_length a
  simp only [FrameArgs.body, List.length_append, List.length_cons, List.length_nil] at h
  omega

theorem FrameArgs.bytes_getElem?_point (t : CrcTable) (a : FrameArgs) (i : Fin 12) {j : Nat} (hj : j < 3) :
    (a.bytes t)[6 + 3 * i.val + j]? = a.pts[i].bytes[j]? := by
  have hlen := pointRecords_length a
  rw [FrameArgs.bytes_eq, List.getElem?_append_right (by simp only [List.length_cons, List.length_nil]; omega),
    show 6 + 3 * i.val + j - _ = 3 * i.val + j from by simp only [List.length_cons, List.length_nil]; omega,
    List.getElem?_append_left (by omega), flatMap_pointBytes_getElem? _ _ _ hj]
  simp

theorem FrameArgs.bytes_getElem?_footer (t : CrcTable) (a : FrameArgs) (j : Nat) :
    (a.bytes t)[42 + j]? = [loByte a.ea, hiByte a.ea, loByte a.ts, hiByte a.ts, a.crcByte t][j]? := by
  have hlen := pointRecords_length a
  rw [FrameArgs.bytes_eq, List.getElem?_append_right (by simp only [List.length_cons, List.length_nil]; omega),
    List.getElem?_append_right (by simp only [List.length_cons, List.length_nil]; omega)]
  congr 1
  simp only [List.length_cons, List.length_nil]
  omega

/-! ### Reading a frame at an offset -/

theorem Frame.u8_eq_of_getElem? {f : Frame} {a : Fin 47} {b : Byte} (h : f.toList[a.val]? = some b) : f.u8 a = b := by
  simpa [Frame.u8] using h

theorem Frame.u16le_eq_of_getElem? {f : Frame} {a : Fin 46} {h : Half} (hlo : f.toList[a.val]? = some (loByte h))
    (hhi : f.toList[a.val + 1]? = some (hiByte h)) : f.u16le a = h := by
  have hlo : f[a.val] = loByte h := Frame.u8_eq_of_getElem? (a := ⟨a.val, by omega⟩) hlo
  have hhi : f[a.val + 1] = hiByte h := Frame.u8_eq_of_getElem? (a := ⟨a.val + 1, by omega⟩) hhi
  rw [Frame.u16le, hlo, hhi, le16_loByte_hiByte]

section Fields

variable (t : CrcTable) (a : FrameArgs)

theorem frameOfArgs_marker : (frameOfArgs t a)[0] = 0x54#8 := rfl

theorem frameOfArgs_verlen : (frameOfArgs t a)[1] = 0x2C#8 := rfl

theorem frameOfArgs_spd : (frameOfArgs t a).u16le 2 = a.spd := Frame.u16le_eq_of_getElem? rfl rfl

theorem frameOfArgs_sa : (frameOfArgs t a).u16le saOffset = a.sa := Frame.u16le_eq_of_getElem? rfl rfl

theorem frameOfArgs_ea : (frameOfArgs t a).u16le eaOffset = a.ea :=
  Frame.u16le_eq_of_getElem? (FrameArgs.bytes_getElem?_footer t a 0) (FrameArgs.bytes_getElem?_footer t a 1)

theorem frameOfArgs_ts : (frameOfArgs t a).u16le 44 = a.ts :=
  Frame.u16le_eq_of_getElem? (FrameArgs.bytes_getElem?_footer t a 2) (FrameArgs.bytes_getElem?_footer t a 3)

theorem frameOfArgs_crc : (frameOfArgs t a).u8 crcOffset = a.crcByte t :=
  Frame.u8_eq_of_getElem? (FrameArgs.bytes_getElem?_footer t a 4)

theorem frameOfArgs_dist (i : Fin 12) : (frameOfArgs t a).u16le (distOffset i) = a.pts[i].dist :=
  Frame.u16le_eq_of_getElem? (FrameArgs.bytes_getElem?_point t a i (j := 0) (by decide))
    (FrameArgs.bytes_getElem?_point t a i (j := 1) (by decide))

theorem frameOfArgs_conf (i : Fin 12) : (frameOfArgs t a).u8 (confOffset i) = a.pts[i].conf := by
  have h := FrameArgs.bytes_getElem?_point t a i (j := 2) (by decide)
  rw [show 6 + 3 * i.val + 2 = 8 + 3 * i.val by omega] at h
  exact Frame.u8_eq_of_getElem? h

/-- The bytes under the checksum are the body. -/
theorem frameOfArgs_covered : (frameOfArgs t a).toList.take 46 = a.body :=
  List.take_left' (FrameArgs.body_length a)

end Fields

/-! ### The arguments of a frame -/

theorem Frame.args_pts_getElem (f : Frame) (i : Fin 12) : f.args.pts[i] = f.point i := by
  have horder : ∀ i : Fin 12, pointOrder[i] = i := by decide
  calc f.args.pts[i] = f.point pointOrder[i] := List.getElem_map f.point
    _ = f.point i := by rw [horder]

theorem FrameArgs.ext_fields {a b : FrameArgs} (hsa : a.sa = b.sa) (hea : a.ea = b.ea)
    (hpts : ∀ i : Fin 12, a.pts[i] = b.pts[i]) (hspd : a.spd = b.spd) (hts : a.ts = b.ts) (hcrc : a.crc = b.crc) :
    a = b := by
  obtain ⟨sa, ea, pts, spd, ts, crc⟩ := a
  obtain ⟨sa', ea', pts', spd', ts', crc'⟩ := b
  rw [FrameArgs.mk.injEq]
  exact ⟨hsa, hea, Vector.ext fun i hi => hpts ⟨i, hi⟩, hspd, hts, hcrc⟩

/-- Reading back what was laid out: the arguments, the checksum as the byte it is. -/
theorem frameOfArgs_args (t : CrcTable) (a : FrameArgs) :
    (frameOfArgs t a).args = { a with crc := .byte (a.crcByte t) } := by
  refine FrameArgs.ext_fields (frameOfArgs_sa t a) (frameOfArgs_ea t a) (fun i => ?_) (frameOfArgs_spd t a)
    (frameOfArgs_ts t a) (congrArg CrcArg.byte (frameOfArgs_crc t a))
  rw [Frame.args_pts_getElem, Frame.point, frameOfArgs_dist, frameOfArgs_conf]

/-- Equal little-endian fields are two equal bytes. -/
theorem Frame.bytes_eq_of_u16le_eq {f g : Frame} {a : Fin 46} (h : f.u16le a = g.u16le a) :
    f[a.val] = g[a.val] ∧ f[a.val + 1] = g[a.val + 1] := by
  have hlo := congrArg loByte h
  have hhi := congrArg hiByte h
  simp only [Frame.u16le, loByte_le16, hiByte_le16] at hlo hhi
  exact ⟨hlo, hhi⟩

/-- The layout of 30_encoding.md R61 leaves no offset out: two sentinels, four 16-bit fields, twelve point records and the
checksum. -/
theorem offset_cases (k : Fin 47) :
    k.val = 0 ∨ k.val = 1 ∨ (∃ a ∈ ([2, 4, 42, 44] : List (Fin 46)), k.val = a.val ∨ k.val = a.val + 1) ∨
    (∃ i : Fin 12, k.val = (distOffset i).val ∨ k.val = (distOffset i).val + 1 ∨ k.val = (confOffset i).val) ∨
    k.val = 46 := by
  by_cases hpoint : 6 ≤ k.val ∧ k.val < 42
  · refine .inr (.inr (.inr (.inl ⟨⟨(k.val - 6) / 3, by omega⟩, ?_⟩)))
    simp only [distOffset, confOffset]
    omega
  · simp only [List.mem_cons, List.not_mem_nil, or_false, exists_eq_or_imp, exists_eq_left]
    omega

/-- So a frame is fixed by its sentinels and its arguments. -/
theorem Frame.eq_of_args_eq {f g : Frame} (h0 : f[0] = g[0]) (h1 : f[1] = g[1]) (h : f.args = g.args) : f = g := by
  have hfield : ∀ a ∈ ([2, 4, 42, 44] : List (Fin 46)), f.u16le a = g.u16le a := by
    simp only [List.forall_mem_cons]
    exact ⟨congrArg FrameArgs.spd h, congrArg FrameArgs.sa h, congrArg FrameArgs.ea h, congrArg FrameArgs.ts h,
      fun _ hmem => nomatch hmem⟩
  have hpoint : ∀ i, f.point i = g.point i := fun i => by
    rw [← Frame.args_pts_getElem, ← Frame.args_pts_getElem, h]
  refine Vector.ext fun k hk => ?_
  obtain hk' | hk' | ⟨a, ha, hk'⟩ | ⟨i, hk'⟩ | hk' := offset_cases ⟨k, hk⟩
  · obtain rfl : k = 0 := hk'
    exact h0
  · obtain rfl : k = 1 := hk'
    exact h1
  · obtain ⟨hlo, hhi⟩ := Frame.bytes_eq_of_u16le_eq (hfield a ha)
    obtain rfl | rfl := hk'
    · exact hlo
    · exact hhi
  · obtain ⟨hlo, hhi⟩ := Frame.bytes_eq_of_u16le_eq (congrArg Point.dist (hpoint i))
    obtain rfl | rfl | rfl := hk'
    · exact hlo
    · exact hhi
    · exact congrArg Point.conf (hpoint i)
  · obtain rfl : k = 46 := hk'
    exact CrcArg.byte.inj (congrArg FrameArgs.crc h)

/-- The frame decoder reads the frame that the first 47 bytes are, if it has both sentinels. -/
theorem decodeFrame_eq_ok_iff {l rest : List Byte} {a : FrameArgs} :
    decodeFrame l = .ok (a, rest) ↔
      ∃ f : Frame, l = f.toList ++ rest ∧ f[0] = 0x54#8 ∧ f[1] = 0x2C#8 ∧ a = f.args := by
  constructor
  · intro h
    unfold decodeFrame at h
    split at h
    · cases h
    · next f hf =>
      rw [Frame.ofBytes?_eq_some] at hf
      split at h
      · next hmarker =>
        split at h
        · next hverlen =>
          cases h
          exact ⟨f, by rw [← hf, List.take_append_drop], (isMarker_iff _).mp hmarker, (isVerlen_iff _).mp hverlen, rfl⟩
        · cases h
      · cases h
  · rintro ⟨f, rfl, h0, h1, rfl⟩
    have hlen : f.toList.length = 47 := f.length_toList
    have htake : (f.toList ++ rest).take 47 = f.toList := List.take_left' hlen
    have hdrop : (f.toList ++ rest).drop 47 = rest := List.drop_left' hlen
    simp [decodeFrame, htake, hdrop, Frame.ofBytes?_eq_some.mpr rfl, h0, h1]

/-- Settles O53: the 47 bytes are a frame with both sentinels, and its fields read back are the arguments. -/
theorem frameDecodeOfEncode : Obligations.FrameDecodeOfEncode := by
  unfold Obligations.FrameDecodeOfEncode
  intro t a rest
  exact ⟨a.bytes t, rfl, decodeFrame_eq_ok_iff.mpr
    ⟨frameOfArgs t a, rfl, frameOfArgs_marker t a, frameOfArgs_verlen t a, (frameOfArgs_args t a).symm⟩⟩

/-- Settles O54: the frame read and the one its arguments are laid out to have the same sentinels and arguments. -/
theorem frameEncodeOfDecode : Obligations.FrameEncodeOfDecode := by
  unfold Obligations.FrameEncodeOfDecode
  intro t l rest a hdec
  obtain ⟨f, rfl, h0, h1, rfl⟩ := decodeFrame_eq_ok_iff.mp hdec
  have hframe : frameOfArgs t f.args = f := Frame.eq_of_args_eq h0.symm h1.symm (frameOfArgs_args t f.args)
  rw [← frameOfArgs_toList, hframe]

/-- Settles O47: the frame of the arguments, field by field. -/
theorem frameExpandsToItsBytes : Obligations.FrameExpandsToItsBytes := by
  unfold Obligations.FrameExpandsToItsBytes
  intro s a
  have hhalf : ∀ {o : Fin 46} {h : Half}, (frameOfArgs s.rom a).u16le o = h → halfAt (frameOfArgs s.rom a) o = h.toNat :=
    fun hread => by rw [← Frame.u16le_toNat, hread]
  have hcrc : (frameOfArgs s.rom a)[46] = a.crcByte s.rom := frameOfArgs_crc s.rom a
  refine ⟨frameOfArgs s.rom a, rfl, frameOfArgs_marker _ a, frameOfArgs_verlen _ a, hhalf (frameOfArgs_spd _ a),
    hhalf (frameOfArgs_sa _ a), hhalf (frameOfArgs_ea _ a), hhalf (frameOfArgs_ts _ a),
    fun i => ⟨hhalf (frameOfArgs_dist _ a i), frameOfArgs_conf _ a i⟩, fun hok => ?_, fun hbad => ?_, fun k hk => ?_⟩
  · rw [accepted, hcrc, frameOfArgs_covered, FrameArgs.crcByte, hok]
  · rw [hcrc, frameOfArgs_covered, FrameArgs.crcByte, hbad]
  · rw [hcrc, FrameArgs.crcByte, hk]

end Sys2Proof.Machine
end

section
/-! Proofs about the bytes that the Framer holds and the frame it hands over (40_framer.md section 3). -/

namespace Sys2Proof.Machine

open Sys2Proof Sys2Proof.Claims

/-! ### The bytes held -/

theorem Memory.read_add_of_offsets (k : Nat) {m : Memory} {a n : Nat} (h : m.map Prod.fst = List.range' a n) :
    m.read (a + k) = m.bytes[k]? := by
  induction k generalizing m a n with
  | zero =>
    cases m with
    | nil => rfl
    | cons c m =>
      obtain ⟨rfl, -⟩ := List.range'_eq_cons_iff.mp h.symm
      rw [Memory.read_cons, if_pos (Nat.add_zero _)]
      rfl
  | succ k ih =>
    cases m with
    | nil => rfl
    | cons c m =>
      obtain ⟨rfl, -, htail⟩ := List.range'_eq_cons_iff.mp h.symm
      rw [Memory.read_cons, if_neg (by omega), ← Nat.add_assoc, Nat.add_right_comm, ih htail]
      rfl

/-- In canonical form the buffer reads as the list of its bytes. -/
theorem Memory.read_eq_bytes_getElem? {m : Memory} {n : Nat} (h : m.map Prod.fst = List.range n) (k : Nat) :
    m.read k = m.bytes[k]? := by
  rw [List.range_eq_range'] at h
  simpa using Memory.read_add_of_offsets k h

/-- With two bytes in, the bytes held start with both sentinels. -/
theorem State.FramerWf.bytes_sentinels {s : State} (hw : s.FramerWf) (hs : s.sync = true) (h2 : 2 ≤ s.cnt.toNat) :
    s.buf.bytes[0]? = some 0x54#8 ∧ s.buf.bytes[1]? = some 0x2C#8 := by
  have hread := Memory.read_eq_bytes_getElem? hw.buf_offsets
  obtain ⟨-, hacc, hverlen, -⟩ := hw
  obtain ⟨-, -, hmarker⟩ := hacc hs
  exact ⟨(hread 0).symm.trans hmarker, (hread 1).symm.trans (hverlen h2)⟩

theorem State.FramerWf.bytes_length {s : State} (hw : s.FramerWf) : s.buf.bytes.length = s.cnt.toNat := by
  rw [Memory.bytes_length, hw.buf_offsets, List.length_range]

/-- The frame of an `F.EMIT` starts with both sentinels (40_framer.md R107). -/
theorem State.FramerWf.frame_sentinels {s : State} (hw : s.FramerWf) (hs : s.sync = true) (h2 : 2 ≤ s.cnt.toNat)
    {f : Frame} {l : List Byte} (hf : f.toList = s.buf.bytes ++ l) : f[0] = 0x54#8 ∧ f[1] = 0x2C#8 := by
  have hlen := hw.bytes_length
  obtain ⟨h0, h1⟩ := hw.bytes_sentinels hs h2
  rw [← List.getElem?_append_left (l₂ := l) (by omega), ← hf] at h0 h1
  exact ⟨Frame.u8_eq_of_getElem? (a := 0) h0, Frame.u8_eq_of_getElem? (a := 1) h1⟩

/-! ### Candidate frames -/

theorem candidates_append (l m : List Event) : candidates (l ++ m) = candidates l ++ candidates m :=
  List.filterMap_append

theorem candidates_drops (t : CrcTable) (f : Frame) : candidates (drops t f) = [] := by
  unfold drops
  split
  · exact List.filterMap_replicate_of_none rfl
  · rfl

theorem candidates_emitEvents (t : CrcTable) (f : Frame) : candidates (emitEvents t f) = [f] :=
  congrArg (f :: ·) (candidates_drops t f)

theorem cand_mem_emitEvents_iff {t : CrcTable} {f g : Frame} : Event.cand g ∈ emitEvents t f ↔ g = f := by
  have hdrops : Event.cand g ∉ drops t f := by
    unfold drops
    split
    · exact fun h => Event.noConfusion (List.eq_of_mem_replicate h)
    · simp
  simp [emitEvents, hdrops]

theorem crc_mem_emitEvents_iff {t : CrcTable} {f : Frame} : Event.crc ∈ emitEvents t f ↔ ¬ accepted t f := by
  by_cases h : accepted t f
  · rw [emitEvents, drops, if_pos h]
    exact iff_of_false (by simp [List.mem_replicate]) (not_not_intro h)
  · rw [emitEvents, drops, if_neg h]
    exact iff_of_true (by simp) h

/-- Settles O17: only `F.EMIT` hands a frame over, and its row is the 47th byte's. -/
theorem candidateFramesCarryBothSentinels : Obligations.CandidateFramesCarryBothSentinels := by
  unfold Obligations.CandidateFramesCarryBothSentinels
  intro s t b hw h
  obtain ⟨-, op, e, hrow, -, he, rfl⟩ := exec_push_eq_next_iff.mp h
  refine ⟨e.events, rfl, ?_⟩
  cases he with
  | skip | sync | lenok | desync | append =>
    have hc : s.cnt ≠ 46#6 := fun hc => by simp [rowOf, hc] at hrow
    exact ⟨fun f hf => by simp at hf, by rw [if_neg hc]; rfl⟩
  | emit f hf =>
    obtain ⟨hs, hc⟩ := hrow
    obtain ⟨h0, h1⟩ := hw.frame_sentinels hs (by omega) hf
    refine ⟨fun g hg => ?_, ?_⟩
    · obtain rfl := cand_mem_emitEvents_iff.mp hg
      exact ⟨hf, h0, h1, by simpa [h0, h1] using crc_mem_emitEvents_iff⟩
    · rw [if_pos (BitVec.eq_of_toNat_eq hc), candidates_emitEvents]
      rfl

end Sys2Proof.Machine
end

section
/-! Proofs about byte streams (40_framer.md section 3, 70_reset_and_hazards.md section 3): noise, false starts and whole
frames. -/

namespace Sys2Proof.Machine

open Sys2Proof Sys2Proof.Claims

/-! ### Idle -/

/-- An Idle state of the invariant is as RESET leaves it. -/
theorem State.FramerWf.toIdle_eq {s : State} (hw : s.FramerWf) (hs : s.sync = false) : s.toIdle = s := by
  obtain ⟨hc, hbuf⟩ := hw.cnt_zero_buf_nil hs
  rw [State.toIdle, State.setFramer, ← hs, ← hc, ← hbuf]

theorem exec_push_noise {s : State} (hw : s.FramerWf) (hs : s.sync = false) {b : Byte} (hb : b ≠ 0x54#8) :
    exec (.push b) s = .next s := by
  have hrow : rowOf .skip s.sync s.cnt.toNat := ⟨hs, by rw [(hw.cnt_zero_buf_nil hs).1]; rfl⟩
  rw [exec_push_of_select (select_of_row hrow hb)]
  exact exec_fSkip_of_row hw hrow hb

/-- The Framer after a marker. -/
def State.afterMarker (s : State) : State := s.setFramer true 1#6 [(0, 0x54#8)]

theorem State.afterMarker_framerWf (s : State) : s.afterMarker.FramerWf := by
  simp [State.afterMarker, State.FramerWf, Memory.read_cons, List.range_succ]

theorem exec_push_marker {s : State} (hw : s.FramerWf) (hs : s.sync = false) :
    exec (.push 0x54#8) s = .next s.afterMarker := by
  have hrow : rowOf .sync s.sync s.cnt.toNat := ⟨hs, by rw [(hw.cnt_zero_buf_nil hs).1]; rfl⟩
  rw [exec_push_of_select (select_of_row hrow rfl)]
  exact exec_fSync_of_row hw hrow rfl

theorem exec_push_rejected_second (s : State) {b : Byte} (hb : b ≠ 0x2C#8) :
    exec (.push b) s.afterMarker = .next (s.toIdle.drop .desync) := by
  have hrow : rowOf .desync s.afterMarker.sync s.afterMarker.cnt.toNat := ⟨rfl, rfl⟩
  rw [exec_push_of_select (select_of_row hrow hb)]
  exact exec_fDesync_of_row s.afterMarker_framerWf hrow hb

/-- A marker and a byte that is not the length sentinel: one event, and that byte is gone. -/
theorem pushAll_false_start {s : State} (hw : s.FramerWf) (hs : s.sync = false) {b : Byte} (hb : b ≠ 0x2C#8)
    (l : List Byte) : pushAll (0x54#8 :: b :: l) s = pushAll l { s with trace := s.trace ++ [.desync] } := by
  rw [pushAll_cons_next (exec_push_marker hw hs), pushAll_cons_next (exec_push_rejected_second s hb), hw.toIdle_eq hs]
  rfl

/-- Settles O19: after the false start the state is Idle, so a 2C that follows is skipped. -/
theorem rejectedSecondByteIsNotLookedAtAgain : Obligations.RejectedSecondByteIsNotLookedAtAgain := by
  unfold Obligations.RejectedSecondByteIsNotLookedAtAgain
  intro s b l hw hs hb
  refine ⟨pushAll_false_start hw hs hb l, ?_⟩
  rw [pushAll_false_start hw hs (by decide)]
  exact pushAll_cons_next (exec_push_noise (s := { s with trace := s.trace ++ [.desync] }) hw hs (by decide))

/-- Settles O20: each byte that is not the marker answers the state it met. -/
theorem noiseInIdleIsIgnored : Obligations.NoiseInIdleIsIgnored := by
  unfold Obligations.NoiseInIdleIsIgnored
  intro s l hw hs hl
  induction l with
  | nil => rfl
  | cons b l ih =>
    rw [List.mem_cons, not_or] at hl
    obtain ⟨hb, hl⟩ := hl
    rw [pushAll_cons_next (exec_push_noise hw hs (Ne.symm hb)), ih hl]

/-! ### A frame -/

theorem exec_push_body {s : State} (hw : s.FramerWf) (hs : s.sync = true) (h2 : 2 ≤ s.cnt.toNat)
    (h45 : s.cnt.toNat ≤ 45) (b : Byte) : exec (.push b) s = .next (appendByte b s) := by
  rw [exec_push_of_select (select_of_row (op := .append) ⟨hs, h2, h45⟩ trivial)]
  exact exec_fAppend_of_row hw ⟨hs, h2, h45⟩

/-- Bytes that do not complete the frame are appended, whatever they are; the cursor and the buffer alone change. -/
theorem pushAll_body (l : List Byte) {s : State} (hw : s.FramerWf) (hs : s.sync = true) (h2 : 2 ≤ s.cnt.toNat)
    (hlen : s.cnt.toNat + l.length ≤ 46) :
    ∃ t, pushAll l s = .next t ∧ t.FramerWf ∧ t = { s with cnt := t.cnt, buf := t.buf } ∧
      t.cnt.toNat = s.cnt.toNat + l.length ∧ t.buf.bytes = s.buf.bytes ++ l := by
  induction l generalizing s with
  | nil => exact ⟨s, rfl, hw, rfl, rfl, (List.append_nil _).symm⟩
  | cons b l ih =>
    rw [List.length_cons] at hlen
    have hw' := appendByte_framerWf b hw hs h2 (by omega)
    have hcnt : (appendByte b s).cnt.toNat = s.cnt.toNat + 1 := hw.cnt_succ_toNat
    have hbytes : (appendByte b s).buf.bytes = s.buf.bytes ++ [b] := Memory.bytes_after_append b hw.buf_offsets
    obtain ⟨t, ht, htw, hframe, htcnt, htbytes⟩ := ih hw' rfl (by omega) (by omega)
    rw [appendByte_of_sync hs] at hframe
    refine ⟨t, ?_, htw, hframe, ?_, ?_⟩
    · rw [pushAll_cons_next (exec_push_body hw hs h2 (by omega) b), ht]
    · rw [htcnt, hcnt, List.length_cons]
      omega
    · rw [htbytes, hbytes, List.append_assoc, List.singleton_append]

/-- Settles O18: every byte short of the 47th is appended. -/
theorem noMidFrameResynchronization : Obligations.NoMidFrameResynchronization := by
  unfold Obligations.NoMidFrameResynchronization
  intro s l hw h2 hlen
  have hs : s.sync = true := by
    obtain ⟨-, hc⟩ | ⟨hs, -⟩ | ⟨hs, -⟩ | ⟨hs, -⟩ := hw.cases
    · simp [hc] at h2
    all_goals exact hs
  obtain ⟨t, ht, -, hframe, hcnt, hbytes⟩ := pushAll_body l hw hs h2 hlen
  refine ⟨t, ht, ?_, hcnt, hbytes, ?_, ?_⟩ <;> rw [hframe]
  exact hs

/-- The Framer after both sentinels. -/
def State.afterSentinels (s : State) : State := s.setFramer true 2#6 [(0, 0x54#8), (1, 0x2C#8)]

@[simp] theorem State.afterSentinels_cnt (s : State) : s.afterSentinels.cnt = 2#6 := rfl

theorem State.afterSentinels_framerWf (s : State) : s.afterSentinels.FramerWf := by
  simp [State.afterSentinels, State.FramerWf, Memory.read_cons, List.range_succ]

theorem exec_push_verlen (s : State) : exec (.push 0x2C#8) s.afterMarker = .next s.afterSentinels := by
  have hrow : rowOf .lenok s.afterMarker.sync s.afterMarker.cnt.toNat := ⟨rfl, rfl⟩
  rw [exec_push_of_select (select_of_row hrow rfl)]
  exact exec_fLenok_of_row s.afterMarker_framerWf hrow rfl

theorem exec_push_last {s : State} (hw : s.FramerWf) (hs : s.sync = true) (hc : s.cnt = 46#6) (b : Byte) :
    ∃ f : Frame, f.toList = s.buf.bytes ++ [b] ∧ exec (.push b) s = .next (emitFrame f s) := by
  obtain ⟨f, hf, hexec⟩ := exec_fEmit_of_full hw hs hc b
  refine ⟨f, hf, ?_⟩
  rw [exec_push_of_select (select_of_row (op := .emit) ⟨hs, congrArg BitVec.toNat hc⟩ trivial)]
  exact hexec

/-- The state after a whole frame from Idle: Idle again, the frame's output and events added, no transient alive. -/
def State.afterFrame (s : State) (f : Frame) : State :=
  { s with
    work := Work.fresh
    out := s.out ++ output s.rom f, trace := s.trace ++ emitEvents s.rom f }

/-- From Idle, the sentinels and 45 bytes are one frame, handed over as it stands. -/
theorem pushAll_frame {s : State} (hw : s.FramerWf) (hs : s.sync = false) {l : List Byte} (hlen : l.length = 45) :
    ∃ f : Frame, f.toList = [0x54#8, 0x2C#8] ++ l ∧ pushAll ([0x54#8, 0x2C#8] ++ l) s = .next (s.afterFrame f) := by
  have hne : l ≠ [] := List.ne_nil_of_length_eq_add_one hlen
  obtain ⟨m, b, rfl⟩ : ∃ m b, l = m ++ [b] := ⟨_, _, (List.dropLast_concat_getLast hne).symm⟩
  have hm : m.length = 44 := by simpa using hlen
  obtain ⟨t, ht, htw, hframe, htcnt, htbytes⟩ :=
    pushAll_body m s.afterSentinels_framerWf rfl (Nat.le_refl 2) (by simp [hm])
  have hsync : t.sync = true := by rw [hframe]; rfl
  have hc : t.cnt = 46#6 := BitVec.eq_of_toNat_eq (by rw [htcnt, hm]; rfl)
  obtain ⟨f, hf, hemit⟩ := exec_push_last htw hsync hc b
  refine ⟨f, by rw [hf, htbytes]; rfl, ?_⟩
  have hbody : pushAll (m ++ [b]) s.afterSentinels = .next (emitFrame f t) := by
    rw [pushAll_append_next ht, pushAll_cons_next hemit, pushAll_nil]
  rw [List.cons_append, List.cons_append, List.nil_append, pushAll_cons_next (exec_push_marker hw hs),
    pushAll_cons_next (exec_push_verlen s), hbody, emitFrame_eq, hframe]
  obtain ⟨hc0, hbuf⟩ := hw.cnt_zero_buf_nil hs
  rw [State.afterFrame, ← hs, ← hc0, ← hbuf]
  rfl

/-- Settles O21: the false start, then a whole frame from Idle. -/
theorem resynchronizesAfterFalseStart : Obligations.ResynchronizesAfterFalseStart := by
  unfold Obligations.ResynchronizesAfterFalseStart
  intro s tail hw hs hlen
  obtain ⟨f, hf, hrun⟩ := pushAll_frame (s := { s with trace := s.trace ++ [.desync] }) hw hs hlen
  obtain ⟨hc, hbuf⟩ := hw.cnt_zero_buf_nil hs
  refine ⟨_, f, (pushAll_false_start hw hs (b := 0x99#8) (by decide) _).trans hrun, hf, ?_, rfl, hs, hc, hbuf⟩
  exact List.append_assoc _ _ _

end Sys2Proof.Machine
end

section
/-! Proofs about any stream (40_framer.md section 3): where all output comes from. -/

namespace Sys2Proof.Machine

open Sys2Proof Sys2Proof.Claims

/-- Bytes before the stream leave the frames in it where they are. -/
theorem inOrderIn_append_left {fs : List Frame} {l : List Byte} (m : List Byte) (h : inOrderIn fs l) :
    inOrderIn fs (m ++ l) := by
  cases fs with
  | nil => trivial
  | cons f fs =>
    obtain ⟨before, after, rfl, hrest⟩ := h
    exact ⟨m ++ before, after, by simp [List.append_assoc], hrest⟩

/-- What 40_framer.md section 3 says of a run that added `new` to the history: its candidate frames lie in the stream, in
order, with their sentinels, and the output added is theirs. -/
structure OutputFrom (rom : CrcTable) (stream : List Byte) (samples : List Sample) (new : List Event) : Prop where
  inOrder : inOrderIn (candidates new) stream
  sentinels : ∀ f ∈ candidates new, f[0] = 0x54#8 ∧ f[1] = 0x2C#8
  output : samples = (candidates new).flatMap (output rom)

/-- A byte's step on the front of a stream: either it adds no frame and no output and the bytes it holds afterwards are an
end of those before it and this one, or they are a frame, and none is held afterwards. -/
theorem FramerEffect.held_cases {s : State} {b : Byte} {op : FramerOp} {e : ByteEffect} (h : FramerEffect s b op e)
    (hw : s.FramerWf) (hrow : rowOf op s.sync s.cnt.toNat) :
    (candidates e.events = [] ∧ e.samples = [] ∧ ∃ lost, s.buf.bytes ++ [b] = lost ++ e.buf.bytes) ∨
    (∃ f : Frame, f.toList = s.buf.bytes ++ [b] ∧ f[0] = 0x54#8 ∧ f[1] = 0x2C#8 ∧ candidates e.events = [f] ∧
      e.samples = output s.rom f ∧ e.buf = []) := by
  cases h with
  | skip =>
    obtain ⟨hs, -⟩ := hrow
    rw [(hw.cnt_zero_buf_nil hs).2]
    exact .inl ⟨rfl, rfl, [b], rfl⟩
  | sync =>
    obtain ⟨hs, -⟩ := hrow
    rw [(hw.cnt_zero_buf_nil hs).2]
    exact .inl ⟨rfl, rfl, [], rfl⟩
  | lenok | append => exact .inl ⟨rfl, rfl, [], (Memory.bytes_after_append b hw.buf_offsets).symm⟩
  | desync => exact .inl ⟨rfl, rfl, s.buf.bytes ++ [b], (List.append_nil _).symm⟩
  | emit f hf =>
    obtain ⟨hs, hc⟩ := hrow
    obtain ⟨h0, h1⟩ := hw.frame_sentinels hs (by omega) hf
    exact .inr ⟨f, hf, h0, h1, candidates_emitEvents _ _, rfl, rfl⟩

/-- One byte more in front of a run. -/
theorem FramerEffect.outputFrom {s : State} {b : Byte} {op : FramerOp} {e : ByteEffect} (h : FramerEffect s b op e)
    (hw : s.FramerWf) (hrow : rowOf op s.sync s.cnt.toNat) {l : List Byte} {samples : List Sample} {new : List Event}
    (hrest : OutputFrom s.rom (e.buf.bytes ++ l) samples new) :
    OutputFrom s.rom (s.buf.bytes ++ b :: l) (e.samples ++ samples) (e.events ++ new) := by
  obtain ⟨horder, hsentinels, houtput⟩ := hrest
  rw [List.append_cons]
  obtain ⟨hnone, hsilent, lost, hheld⟩ | ⟨f, hf, h0, h1, hcand, hout, hbuf⟩ := h.held_cases hw hrow
  · have hcands : candidates (e.events ++ new) = candidates new := by rw [candidates_append, hnone, List.nil_append]
    refine ⟨?_, ?_, ?_⟩ <;> rw [hcands]
    · rw [hheld, List.append_assoc]
      exact inOrderIn_append_left lost horder
    · exact hsentinels
    · rw [hsilent, List.nil_append, houtput]
  · have hcands : candidates (e.events ++ new) = f :: candidates new := by rw [candidates_append, hcand]; rfl
    rw [hbuf] at horder
    refine ⟨?_, ?_, ?_⟩ <;> rw [hcands]
    · exact ⟨[], l, by rw [hf, List.nil_append], horder⟩
    · exact List.forall_mem_cons.mpr ⟨⟨h0, h1⟩, hsentinels⟩
    · rw [hout, houtput, List.flatMap_cons]

theorem pushAll_cons_eq_next {b : Byte} {l : List Byte} {s t : State} (h : pushAll (b :: l) s = .next t) :
    ∃ u, exec (.push b) s = .next u ∧ pushAll l u = .next t := by
  by_cases hw : s.FramerWf
  · obtain ⟨u, hu⟩ := hw.exec_push_runs b
    exact ⟨u, hu, by rw [← h, pushAll_cons_next hu]⟩
  · rw [pushAll_cons_refused (exec_push_of_illFormed hw b)] at h
    cases h

/-- From any well-formed state, the bytes held counted in front of the stream. -/
theorem pushAll_outputFrom (l : List Byte) {s t : State} (hw : s.FramerWf) (h : pushAll l s = .next t) :
    ∃ samples new, t.out = s.out ++ samples ∧ t.trace = s.trace ++ new ∧
      OutputFrom s.rom (s.buf.bytes ++ l) samples new := by
  induction l generalizing s with
  | nil =>
    cases h
    exact ⟨[], [], (List.append_nil _).symm, (List.append_nil _).symm, trivial, fun f hf => absurd hf List.not_mem_nil, rfl⟩
  | cons b l ih =>
    obtain ⟨u, hu, hl⟩ := pushAll_cons_eq_next h
    obtain ⟨-, op, e, hrow, hb, he, rfl⟩ := exec_push_eq_next_iff.mp hu
    obtain ⟨samples, new, hout, htrace, hfrom⟩ := ih (he.framerWf hw hrow hb) hl
    refine ⟨e.samples ++ samples, e.events ++ new, ?_, ?_, he.outputFrom hw hrow hfrom⟩
    · rw [hout, ← List.append_assoc]; rfl
    · rw [htrace, ← List.append_assoc]; rfl

/-- Settles O22: from Idle no byte is held, so the frames lie in the stream itself. -/
theorem outputComesFromConsecutiveStreamBytes : Obligations.OutputComesFromConsecutiveStreamBytes := by
  unfold Obligations.OutputComesFromConsecutiveStreamBytes
  intro s t l hw hs h
  obtain ⟨samples, new, hout, htrace, horder, hsentinels, rfl⟩ := pushAll_outputFrom l hw h
  rw [(hw.cnt_zero_buf_nil hs).2] at horder
  exact ⟨new, htrace, horder, hsentinels, hout⟩

end Sys2Proof.Machine
end

section
/-! Proofs about steps (70_reset_and_hazards.md section 3): the pending bytes are run in order, and what a FRAME that waits
comes out as. -/

namespace Sys2Proof.Machine

open Sys2Proof Sys2Proof.Claims

/-- The items behind a byte take no part in its step. -/
theorem exec_push_setInput {s t : State} {b : Byte} (h : exec (.push b) s = .next t) (l : List HostItem) :
    exec (.push b) (s.setInput l) = .next (t.setInput l) := by
  obtain ⟨-, e, -, rfl, hexec⟩ := SameCore.exec_push (s := s) (s' := s.setInput l) ⟨rfl, rfl, rfl, rfl⟩ h
  exact hexec

theorem exec_push_input {s t : State} {b : Byte} (h : exec (.push b) s = .next t) : t.input = s.input := by
  obtain ⟨-, -, e, -, -, -, rfl⟩ := exec_push_eq_next_iff.mp h
  rfl

/-- Settles O55: a step takes the byte at the head and pushes it, with the items behind it as they are. -/
theorem stepsRunPendingBytesInOrder : Obligations.StepsRunPendingBytesInOrder := by
  unfold Obligations.StepsRunPendingBytesInOrder
  intro s l rest hin
  induction l generalizing s with
  | nil =>
    obtain rfl : s.input = rest := hin
    rfl
  | cons b l ih =>
    have hstep : step s = exec (.push b) ((s.setInput rest).setInput (l.map .push ++ rest)) := step_of_input_cons hin
    by_cases hw : s.FramerWf
    · obtain ⟨t, ht⟩ := State.FramerWf.exec_push_runs (s := s.setInput rest) hw b
      have hrest : { t.setInput (l.map .push ++ rest) with input := rest } = t := by
        rw [← show t.input = rest from exec_push_input ht]
        rfl
      rw [exec_push_setInput ht] at hstep
      rw [List.length_cons, run_succ_next hstep, ih _ rfl, hrest]
      exact (pushAll_cons_next ht).symm
    · have hill : ¬ ((s.setInput rest).setInput (l.map .push ++ rest)).FramerWf := hw
      rw [List.length_cons, run_succ_refused (hstep.trans (exec_push_of_illFormed hill b))]
      exact (pushAll_cons_refused (exec_push_of_illFormed (s := s.setInput rest) hw b)).symm

/-- Settles O56: the state after the first frame is Idle, so the second is a frame from Idle too. -/
theorem backToBackFramesNeedNoIdleBytes : Obligations.BackToBackFramesNeedNoIdleBytes := by
  unfold Obligations.BackToBackFramesNeedNoIdleBytes
  intro s l m rest hw hs hl hm hin
  have hrun := stepsRunPendingBytesInOrder s _ rest hin
  rw [show ([0x54#8, 0x2C#8] ++ l ++ ([0x54#8, 0x2C#8] ++ m)).length = 94 by simp [hl, hm]] at hrun
  obtain ⟨f, hf, hfirst⟩ := pushAll_frame (s := { s with input := rest }) hw hs hl
  obtain ⟨g, hg, hsecond⟩ := pushAll_frame (s := State.afterFrame { s with input := rest } f) hw hs hm
  obtain ⟨hc, hbuf⟩ := hw.cnt_zero_buf_nil hs
  exact ⟨_, f, g, hrun.trans ((pushAll_append_next hfirst).trans hsecond), hf, hg, rfl, rfl, hs, hc, hbuf, rfl, rfl⟩

/-- The Samples of the frame of some arguments are those the arguments stand for. -/
theorem samples_frameOfArgs (t : CrcTable) (a : FrameArgs) : samples (frameOfArgs t a) = argSamples a := by
  have hdist : ∀ i, distOf (frameOfArgs t a) i = a.pts[i].dist.toNat := fun i => by
    rw [← frameOfArgs_dist t a i, Frame.u16le_toNat]; rfl
  have hconf : ∀ i, confOf (frameOfArgs t a) i = a.pts[i].conf := frameOfArgs_conf t a
  have hsa : halfAt (frameOfArgs t a) 4 = a.sa.toNat := by rw [← frameOfArgs_sa t a, Frame.u16le_toNat]; rfl
  have hea : halfAt (frameOfArgs t a) 42 = a.ea.toNat := by rw [← frameOfArgs_ea t a, Frame.u16le_toNat]; rfl
  have hkept : kept (frameOfArgs t a) = fun i => 0 < a.pts[i].dist.toNat && 100 < a.pts[i].conf.toNat :=
    funext fun i => by rw [kept, hdist, hconf]
  have hsample : sample (frameOfArgs t a) = fun i => ⟨angle a.sa.toNat a.ea.toNat i, a.pts[i].dist, a.pts[i].conf⟩ :=
    funext fun i => by rw [sample, hsa, hea, hdist, hconf, BitVec.ofNat_toNat, BitVec.setWidth_eq]
  rw [samples, hkept, hsample, argSamples]

/-- What the frame of some arguments yields goes by its checksum byte. -/
theorem output_frameOfArgs (t : CrcTable) (a : FrameArgs) :
    output t (frameOfArgs t a) = if t.crc8 a.body = a.crcByte t then argSamples a else [] := by
  have hcrc : (frameOfArgs t a)[46] = a.crcByte t := frameOfArgs_crc t a
  have haccepted : accepted t (frameOfArgs t a) ↔ t.crc8 a.body = a.crcByte t := by
    unfold accepted
    rw [frameOfArgs_covered, hcrc]
  rw [output, samples_frameOfArgs]
  by_cases h : t.crc8 a.body = a.crcByte t
  · rw [if_pos (haccepted.mpr h), if_pos h]
  · rw [if_neg (mt haccepted.mp h), if_neg h]

theorem xor_allOnes_ne (b : Byte) : b ^^^ 0xFF#8 ≠ b := by
  intro h
  have hzero : 0xFF#8 = b ^^^ b := by rw [← BitVec.xor_right_inj b, h]; simp
  simp at hzero

/-- Settles O48: one step expands the FRAME, and its 47 bytes are a frame from Idle. -/
theorem frameInFrameOut : Obligations.FrameInFrameOut := by
  unfold Obligations.FrameInFrameOut
  intro s a rest hw hs hin
  have hexpand : step s = .next ((s.setInput rest).offerBytes (a.bytes s.rom)) := step_of_input_cons hin
  have hrun := stepsRunPendingBytesInOrder ((s.setInput rest).offerBytes (a.bytes s.rom)) (a.bytes s.rom) rest rfl
  rw [FrameArgs.bytes_length] at hrun
  obtain ⟨l, hl⟩ : ∃ l, a.bytes s.rom = [0x54#8, 0x2C#8] ++ l := ⟨_, FrameArgs.bytes_eq s.rom a⟩
  have hlen : l.length = 45 := by
    have := FrameArgs.bytes_length s.rom a
    rw [hl, List.length_append, show [0x54#8, 0x2C#8].length = 2 from rfl] at this
    omega
  obtain ⟨f, hf, hframe⟩ := pushAll_frame (s := s.setInput rest) hw hs hlen
  obtain rfl : f = frameOfArgs s.rom a := Vector.toList_inj.mp (hf.trans hl.symm)
  rw [← hl] at hframe
  obtain ⟨hc, hbuf⟩ := hw.cnt_zero_buf_nil hs
  refine ⟨_, (run_succ_next hexpand).trans (hrun.trans hframe), hs, hc, hbuf, rfl, rfl, fun hok => ?_, fun hbad => ?_⟩
  · have hcrc : s.rom.crc8 a.body = a.crcByte s.rom := by rw [FrameArgs.crcByte, hok]
    exact congrArg (s.out ++ ·) ((output_frameOfArgs s.rom a).trans (if_pos hcrc))
  · have hcrc : s.rom.crc8 a.body ≠ a.crcByte s.rom := by
      rw [FrameArgs.crcByte, hbad]
      exact (xor_allOnes_ne _).symm
    exact (congrArg (s.out ++ ·) ((output_frameOfArgs s.rom a).trans (if_neg hcrc))).trans (List.append_nil _)

end Sys2Proof.Machine
end

section
/-! Proofs about the checksum (41_crc.md section 2): what a permutation table detects, what another one misses, and that the
default table is the one generated and a permutation. -/

namespace Sys2Proof.Machine

open Sys2Proof Sys2Proof.Claims

/-! ### One byte changed -/

section Permutation

variable {t : CrcTable}

theorem CrcTable.update_eq_entry (t : CrcTable) (acc b : Byte) : t.update acc b = t.entry (acc ^^^ b) := by
  rw [CrcTable.update_eq_getElem, CrcTable.entry]

/-- With a permutation an update forgets neither the byte nor the accumulator. -/
theorem permutation_update_byte_inj (ht : t.IsPermutation) {acc b c : Byte} (h : t.update acc b = t.update acc c) :
    b = c := by
  rw [CrcTable.update_eq_entry, CrcTable.update_eq_entry] at h
  exact (BitVec.xor_right_inj acc).mp (ht _ _ h)

theorem permutation_update_acc_inj (ht : t.IsPermutation) {acc acc' b : Byte}
    (h : t.update acc b = t.update acc' b) : acc = acc' := by
  rw [CrcTable.update_eq_entry, CrcTable.update_eq_entry] at h
  exact (BitVec.xor_left_inj b).mp (ht _ _ h)

/-- A difference in the accumulator lasts through equal bytes. -/
theorem permutation_foldl_update_inj (ht : t.IsPermutation) (l : List Byte) {acc acc' : Byte}
    (h : l.foldl t.update acc = l.foldl t.update acc') : acc = acc' := by
  induction l generalizing acc acc' with
  | nil => exact h
  | cons b l ih => exact permutation_update_acc_inj ht (ih h)

end Permutation

/-- Settles O28: the accumulators are equal before the changed byte, differ after it, and differ to the end. -/
theorem oneByteChangeChangesChecksum : Obligations.OneByteChangeChangesChecksum := by
  unfold Obligations.OneByteChangeChangesChecksum
  intro t m k hk b ht hb heq
  rw [List.set_eq_take_append_cons_drop, if_pos hk] at heq
  conv at heq => rhs; rw [← List.take_append_drop k m, List.drop_eq_getElem_cons hk]
  simp only [CrcTable.crc8, List.foldl_append, List.foldl_cons] at heq
  exact hb (permutation_update_byte_inj ht (permutation_foldl_update_inj ht _ heq))

/-- Settles O29: two indices with one entry are two last bytes with one checksum, whatever the accumulator before them. -/
theorem nonPermutationTableMissesOneByteChange : Obligations.NonPermutationTableMissesOneByteChange := by
  unfold Obligations.NonPermutationTableMissesOneByteChange
  intro t ht
  obtain ⟨i, j, hentry, hne⟩ : ∃ i j : Byte, t.entry i = t.entry j ∧ i ≠ j := by
    simpa [CrcTable.IsPermutation] using ht
  have hlast : ∀ k : Byte, t.crc8 (List.replicate 45 0#8 ++ [t.crc8 (List.replicate 45 0#8) ^^^ k]) = t.entry k :=
    fun k => by rw [CrcTable.crc8_concat, CrcTable.update_eq_entry, ← BitVec.xor_assoc, BitVec.xor_self, BitVec.zero_xor]
  have hset : ∀ x y : Byte, (List.replicate 45 0#8 ++ [x]).set 45 y = List.replicate 45 0#8 ++ [y] :=
    fun x y => by rw [List.set_append_right _ _ (by simp)]; rfl
  refine ⟨List.replicate 45 0#8 ++ [t.crc8 (List.replicate 45 0#8) ^^^ i], 45,
    t.crc8 (List.replicate 45 0#8) ^^^ j, by simp, fun hsame => hne ?_, ?_⟩
  · rw [hset, List.append_cancel_left_eq, List.singleton_inj] at hsame
    exact ((BitVec.xor_right_inj _).mp hsame).symm
  · rw [hset, hlast, hlast, hentry]

/-- With a permutation table no frame that differs from an accepted one at one offset is accepted. -/
theorem not_accepted_of_one_byte_change {t : CrcTable} (ht : t.IsPermutation) {f : Frame} (hf : accepted t f) (k : Fin 47)
    {b : Byte} (hb : b ≠ f[k.val]) : ¬ accepted t (f.set k.val b) := by
  unfold accepted at hf ⊢
  rw [Vector.toList_set, List.take_set, Vector.getElem_set]
  split
  · next hlast =>
    rw [List.set_eq_of_length_le (by simp [hlast]), hf]
    simp only [hlast] at hb
    exact hb.symm
  · next hbody =>
    have hk : k.val < (f.toList.take 46).length := by simp; omega
    rw [← hf]
    exact oneByteChangeChangesChecksum t _ k.val hk b ht (by simpa using hb)

/-- Settles O30: the mutated frame is not accepted, and what `DECODE` does goes by that alone. -/
theorem oneByteMutationIsRejected : Obligations.OneByteMutationIsRejected := by
  unfold Obligations.OneByteMutationIsRejected
  intro s f k b ht hf hb
  have hrejected := not_accepted_of_one_byte_change ht hf k hb
  obtain ⟨hsamples, htrace⟩ := runDecode_spec (f.set k.val b) s
  rw [output, if_neg hrejected] at hsamples
  rw [drops, if_neg hrejected] at htrace
  exact ⟨_, exec_decode _ s, hsamples, htrace⟩

theorem crcMatches_iff (computed received : Byte) : crcMatches computed received = true ↔ computed = received :=
  beq_iff_eq

/-- Settles O25: the two branches of the compare. -/
theorem crcChkDropsOnMismatchOnly : Obligations.CrcChkDropsOnMismatchOnly := by
  unfold Obligations.CrcChkDropsOnMismatchOnly
  intro s computed received
  have hexec : exec (.crcChk computed received) s = .next (runCrcChk computed received s) := rfl
  refine ⟨fun heq => ?_, fun hne => ?_⟩
  · rw [hexec, runCrcChk, if_pos ((crcMatches_iff _ _).mpr heq)]
    rfl
  · rw [hexec, runCrcChk, if_neg (mt (crcMatches_iff _ _).mp hne)]
    rfl

/-! ### The default table -/

/-- A round undone: the low bit of its result says whether the polynomial was added. -/
def crcGenUnround (x : Byte) : Byte := if x[0] then ((x ^^^ 0x4D#8) >>> 1) ||| 0x80#8 else x >>> 1

theorem crcGenUnround_crcGenRound : ∀ i : Byte, crcGenUnround (crcGenRound i) = i := by decide

theorem crcGenRound_injective : Function.Injective crcGenRound :=
  Function.LeftInverse.injective crcGenUnround_crcGenRound

/-- R125: eight rounds, each of which can be undone. -/
theorem crcGenEntry_injective : Function.Injective crcGenEntry := by
  have hround : ∀ {i j : Byte}, crcGenRound i = crcGenRound j → i = j := fun h => crcGenRound_injective h
  exact fun _ _ h => hround (hround (hround (hround (hround (hround (hround (hround h)))))))

theorem defaultCrcTable_entry : ∀ i : Byte, defaultCrcTable.entry i = crcGenEntry i := by decide

theorem defaultCrcTable_isPermutation : defaultCrcTable.IsPermutation := fun i j h => by
  rw [defaultCrcTable_entry, defaultCrcTable_entry] at h
  exact crcGenEntry_injective h

/-- Settles O26: entry by entry as generated, and the generation can be undone. -/
theorem defaultTableIsGeneratedPermutation : Obligations.DefaultTableIsGeneratedPermutation := by
  unfold Obligations.DefaultTableIsGeneratedPermutation
  exact ⟨defaultCrcTable_entry, defaultCrcTable_isPermutation⟩

/-- Settles O27: the last update is at index 0, and entry 0 is 0. -/
theorem defaultTableMessageWithChecksumEndsAtZero : Obligations.DefaultTableMessageWithChecksumEndsAtZero := by
  unfold Obligations.DefaultTableMessageWithChecksumEndsAtZero
  intro m
  calc defaultCrcTable.crc8 (m ++ [defaultCrcTable.crc8 m])
      = defaultCrcTable.entry (defaultCrcTable.crc8 m ^^^ defaultCrcTable.crc8 m) := by
        rw [CrcTable.crc8_concat, CrcTable.update_eq_entry]
    _ = defaultCrcTable.entry 0#8 := by rw [BitVec.xor_self]
    _ = 0#8 := rfl

end Sys2Proof.Machine
end

section
/-! Proofs about the state after reset (10_state.md section 3) and the unpacker (42_unpack.md section 1). -/

namespace Sys2Proof.Machine

open Sys2Proof Sys2Proof.Claims

/-- Settles O1: the values that `State.reset` writes. -/
theorem resetStateIsIdleAndEmpty : Obligations.ResetStateIsIdleAndEmpty := by
  unfold Obligations.ResetStateIsIdleAndEmpty
  exact ⟨rfl, rfl, fun _ => rfl, rfl, rfl, rfl, rfl⟩

/-- Settles O2: Idle and empty, with the default table. -/
theorem resetMeetsInvariant : Obligations.ResetMeetsInvariant := by
  unfold Obligations.ResetMeetsInvariant
  exact ⟨framerWf_of_idle rfl rfl rfl, Memory.nil_wf, defaultCrcTable_isPermutation, rfl⟩

/-- Settles O31: the byte goes into the transient that the operand names. -/
theorem ldU8ReadsTheByte : Obligations.LdU8ReadsTheByte := by
  unfold Obligations.LdU8ReadsTheByte
  exact fun _ _ _ => ⟨rfl, rfl⟩

/-- Settles O32: the field assembled from its two bytes, which are its low and its high byte. -/
theorem ldU16leReadsLittleEndian : Obligations.LdU16leReadsLittleEndian := by
  unfold Obligations.LdU16leReadsLittleEndian
  intro s f a
  exact ⟨f.u16le a, Frame.u16le_toNat f a, loByte_le16 _ _, hiByte_le16 _ _, rfl, rfl, rfl⟩

end Sys2Proof.Machine
end

section
/-! Proofs about the angles of a frame (43_angle.md sections 2 and 3): every raw numerator lies between that of the start and
that of the end angle, so bounds on the two fields bound all twelve. -/

namespace Sys2Proof.Machine

open Sys2Proof Sys2Proof.Claims

/-- The end angle as the interpolation sees it: one turn above the field where the frame straddles 0°. -/
def endAngle (sa ea : Half) : Int := (ea.toNat : Int) + if sa.toNat ≤ ea.toNat then 0 else 36000

theorem angleSpan_eq_endAngle_sub (sa ea : Half) : angleSpan sa ea = endAngle sa ea - sa.toNat := by
  unfold endAngle
  split
  · next hle => rw [angleSpan_of_le hle]; omega
  · next hlt => rw [angleSpan_of_lt (Nat.lt_of_not_le hlt)]; omega

theorem endAngle_nonneg (sa ea : Half) : 0 ≤ endAngle sa ea := by
  unfold endAngle
  split <;> omega

theorem endAngle_le (sa ea : Half) : endAngle sa ea ≤ 101534 := by
  have hsa : sa.toNat < 65536 := sa.isLt
  have hea : ea.toNat < 65536 := ea.isLt
  unfold endAngle
  split <;> omega

/-- R153 on the span of R151: eleven parts, `i` of them the end angle and the others the start angle. -/
theorem angleRaw_eq_blend (sa ea : Half) (i : Fin 12) :
    angleRaw sa (angleSpan sa ea) i = (11 - (i.val : Int)) * sa.toNat + i.val * endAngle sa ea := by
  have hraw : angleRaw sa (angleSpan sa ea) i = 11 * (sa.toNat : Int) + i.val * angleSpan sa ea := rfl
  rw [hraw, angleSpan_eq_endAngle_sub, Int.mul_sub, Int.sub_mul]
  omega

theorem angleRaw_bounds {sa ea : Half} {m : Int} (hsa : (sa.toNat : Int) ≤ m) (hend : endAngle sa ea ≤ m) (i : Fin 12) :
    0 ≤ angleRaw sa (angleSpan sa ea) i ∧ angleRaw sa (angleSpan sa ea) i ≤ 11 * m := by
  have hparts : 0 ≤ 11 - (i.val : Int) := by omega
  have hnonneg := endAngle_nonneg sa ea
  rw [angleRaw_eq_blend]
  constructor
  · exact Int.add_nonneg (Int.mul_nonneg hparts (Int.natCast_nonneg _)) (Int.mul_nonneg (Int.natCast_nonneg _) hnonneg)
  · calc (11 - (i.val : Int)) * sa.toNat + i.val * endAngle sa ea
        ≤ (11 - (i.val : Int)) * m + i.val * m :=
          Int.add_le_add (Int.mul_le_mul_of_nonneg_left hsa hparts)
            (Int.mul_le_mul_of_nonneg_left hend (Int.natCast_nonneg _))
      _ = 11 * m := by rw [← Int.add_mul, Int.sub_add_cancel]

/-- The bounds for all fields, in range or not. -/
theorem angleRaw_bounds_of_any_fields (sa ea : Half) (i : Fin 12) :
    0 ≤ angleRaw sa (angleSpan sa ea) i ∧ angleRaw sa (angleSpan sa ea) i ≤ 1116874 :=
  angleRaw_bounds (by have : sa.toNat < 65536 := sa.isLt; omega) (endAngle_le sa ea) i

/-- The bounds for fields below one turn. -/
theorem angleRaw_bounds_of_in_range {sa ea : Half} (hsa : sa.toNat < 36000) (hea : ea.toNat < 36000) (i : Fin 12) :
    0 ≤ angleRaw sa (angleSpan sa ea) i ∧ angleRaw sa (angleSpan sa ea) i < 2 * 396000 := by
  have hend : endAngle sa ea ≤ 71999 := by
    unfold endAngle
    split <;> omega
  obtain ⟨hlow, hhigh⟩ := angleRaw_bounds (by omega) hend i
  exact ⟨hlow, by omega⟩

theorem angleNorm_eq_sub (nraw : Int) : angleNorm nraw = nraw - if 396000 ≤ nraw then 396000 else 0 := by
  split
  · next hle => exact angleNorm_of_le hle
  · next hlt => rw [angleNorm_of_lt (Int.not_le.mp hlt), Int.sub_zero]

theorem exec_angRaw (sa : Half) (diff : Int) (i : Fin 12) (s : State) :
    exec (.angRaw sa diff i) s = .next { s with work := { s.work with nraw := angleRaw sa diff i } } := rfl

/-- Settles O34: the blend at its ends, and its bounds. -/
theorem angRawInterpolatesExactly : Obligations.AngRawInterpolatesExactly := by
  unfold Obligations.AngRawInterpolatesExactly
  refine ⟨fun s sa diff i => exec_angRaw sa diff i s, fun s u t sa ea i hdiff hraw => ?_⟩
  rw [exec_angDiff] at hdiff
  cases hdiff
  rw [exec_angRaw] at hraw
  cases hraw
  obtain ⟨hlow, hhigh⟩ := angleRaw_bounds_of_any_fields sa ea i
  have hblend := angleRaw_eq_blend sa ea i
  refine ⟨hlow, hhigh, ?_, ?_⟩
  · rintro rfl
    have hval : ((0 : Fin 12).val : Int) = 0 := rfl
    rw [hval, Int.sub_zero, Int.zero_mul, Int.add_zero] at hblend
    exact hblend
  · rintro rfl
    have hval : ((11 : Fin 12).val : Int) = 11 := rfl
    rw [hval, Int.sub_self, Int.zero_mul, Int.zero_add] at hblend
    exact hblend

/-- Settles O36: the span by its two branches, the numerators by the blend. -/
theorem angleWidthsSuffice : Obligations.AngleWidthsSuffice := by
  unfold Obligations.AngleWidthsSuffice
  intro sa ea i
  have hsa : sa.toNat < 65536 := sa.isLt
  have hspan := angleSpan_eq_endAngle_sub sa ea
  have hnonneg := endAngle_nonneg sa ea
  have hle := endAngle_le sa ea
  obtain ⟨hlow, hhigh⟩ := angleRaw_bounds_of_any_fields sa ea i
  rw [angleNorm_eq_sub]
  refine ⟨by omega, by omega, hlow, by omega, ?_, ?_⟩ <;> split <;> omega

/-- A property that lasts along the points starts at one index, which is past the last one where it never holds. -/
theorem exists_threshold {n : Nat} {p : Fin n → Prop} (hlast : ∀ i j, i ≤ j → p i → p j) :
    ∃ k : Nat, k ≤ n ∧ ∀ i : Fin n, p i ↔ k ≤ i.val := by
  induction n with
  | zero => exact ⟨0, Nat.le_refl 0, fun i => i.elim0⟩
  | succ n ih =>
    by_cases hp : p (Fin.last n)
    · obtain ⟨k, hk, hiff⟩ := ih (p := fun i => p i.castSucc) fun i j hij => hlast i.castSucc j.castSucc hij
      refine ⟨k, Nat.le_succ_of_le hk, fun i => ?_⟩
      cases i using Fin.lastCases with
      | last => exact iff_of_true hp hk
      | cast i => exact hiff i
    · refine ⟨n + 1, Nat.le_refl _, fun i => iff_of_false (fun hi => hp (hlast i _ (Fin.le_last i) hi)) ?_⟩
      exact Nat.not_le_of_lt i.isLt

/-- Settles O38: the span is not negative, so the numerators rise, and they pass the full turn once. -/
theorem anglesRiseButForOneWrap : Obligations.AnglesRiseButForOneWrap := by
  unfold Obligations.AnglesRiseButForOneWrap
  intro sa ea hsa hea
  have hspan : 0 ≤ angleSpan sa ea := by
    rw [angleSpan_eq_endAngle_sub, endAngle]
    split <;> omega
  have hrise : ∀ i j : Fin 12, i ≤ j → angleRaw sa (angleSpan sa ea) i ≤ angleRaw sa (angleSpan sa ea) j := by
    intro i j hij
    have hval : (i.val : Int) ≤ j.val := Int.ofNat_le.mpr hij
    exact Int.add_le_add_left (Int.mul_le_mul_of_nonneg_right hval hspan) _
  obtain ⟨k, hk, hthreshold⟩ :=
    exists_threshold (p := fun i => 396000 ≤ angleRaw sa (angleSpan sa ea) i) fun i j hij hi => Int.le_trans hi (hrise i j hij)
  exact ⟨hrise, k, hk, fun i => by simp only [angleNorm_eq_sub, hthreshold i]⟩

/-! ### The Samples of a frame -/

theorem kept_iff (f : Frame) (i : Fin 12) : kept f i = true ↔ 0 < distOf f i ∧ 100 < (confOf f i).toNat := by
  simp [kept]

theorem mem_output {t : CrcTable} {f : Frame} {x : Sample} (h : x ∈ output t f) :
    ∃ i, kept f i = true ∧ x = sample f i := by
  unfold output at h
  split at h
  · obtain ⟨i, hi, rfl⟩ := List.mem_map.mp h
    exact ⟨i, (List.mem_filter.mp hi).2, rfl⟩
  · exact absurd h List.not_mem_nil

theorem output_sublist (t : CrcTable) (f : Frame) : (output t f).Sublist ((List.finRange 12).map (sample f)) := by
  unfold output
  split
  · exact List.filter_sublist.map _
  · exact List.nil_sublist _

/-- The distance of a Sample is the field itself. -/
theorem sample_dist_toNat (f : Frame) (i : Fin 12) : (sample f i).dist.toNat = distOf f i := by
  have hdist : distOf f i = (f.u16le (distOffset i)).toNat := (Frame.u16le_toNat f (distOffset i)).symm
  rw [sample, hdist, BitVec.ofNat_toNat, BitVec.setWidth_eq]

/-- The angle of a Sample as the model computes it. -/
theorem sample_n_eq (f : Frame) (i : Fin 12) :
    (sample f i).n = angleNorm (angleRaw (f.u16le 4) (angleSpan (f.u16le 4) (f.u16le 42)) i) := by
  rw [angleNorm_angleRaw_eq_angle, Frame.u16le_toNat, Frame.u16le_toNat]
  rfl

theorem exec_decode_samples {s t : State} {f : Frame} (h : exec (.decode f) s = .next t) :
    t.work.samples = output s.rom f := by
  rw [exec_decode] at h
  cases h
  obtain ⟨hsamples, -⟩ := runDecode_spec f s
  exact hsamples

/-- Settles O37: below two turns before the subtraction, so below one after it. -/
theorem inRangeFieldsGiveInRangeAngles : Obligations.InRangeFieldsGiveInRangeAngles := by
  unfold Obligations.InRangeFieldsGiveInRangeAngles
  intro s t f hsa hea h x hx
  rw [exec_decode_samples h] at hx
  obtain ⟨i, -, rfl⟩ := mem_output hx
  rw [← Frame.u16le_toNat] at hsa hea
  obtain ⟨hlow, hhigh⟩ := angleRaw_bounds_of_in_range hsa hea i
  rw [sample_n_eq, angleNorm_eq_sub]
  constructor <;> split <;> omega

/-- Settles O41: the Samples are the kept ones of the twelve points in order. -/
theorem samplesAreFilteredPointsInOrder : Obligations.SamplesAreFilteredPointsInOrder := by
  unfold Obligations.SamplesAreFilteredPointsInOrder
  intro s t f h
  rw [exec_decode_samples h]
  refine ⟨output_sublist _ f, output_length_le _ f, fun x hx => ?_⟩
  obtain ⟨i, hkept, rfl⟩ := mem_output hx
  obtain ⟨hdist, hconf⟩ := (kept_iff f i).mp hkept
  refine ⟨fun hzero => ?_, hconf⟩
  rw [← sample_dist_toNat, hzero] at hdist
  exact absurd hdist (by decide)

end Sys2Proof.Machine
end

section
/-! Proofs about every instruction (10_state.md sections 1 and 2): what each group of the operations of 30_encoding.md R74
reads and writes. -/

namespace Sys2Proof.Machine

open Sys2Proof Sys2Proof.Claims

/-- What a format-S operation does: a function of the table and the transients, it writes the transients and the end of the
event history. -/
def DecoderLocal (g : State → State) : Prop :=
  ∀ s s' : State, s'.rom = s.rom → s'.work = s.work → ∃ l : List Event, (g s').work = (g s).work ∧
    g s = { s with work := (g s).work, trace := s.trace ++ l } ∧
    g s' = { s' with work := (g s').work, trace := s'.trace ++ l }

theorem decoderLocal_of {g : State → State} (honly : ∀ s, OnlyWork s (g s))
    (hwork : ∀ s s' : State, s'.rom = s.rom → s'.work = s.work → (g s').work = (g s).work)
    (events : CrcTable → List Event) (htrace : ∀ s, (g s).trace = s.trace ++ events s.rom) : DecoderLocal g :=
  fun s s' hrom hw => ⟨events s.rom, hwork s s' hrom hw, (honly s).eq_of_trace (htrace s),
    (honly s').eq_of_trace (hrom ▸ htrace s')⟩

/-- The operations that record no event. -/
theorem decoderLocal_setWork (w : CrcTable → Work → Work) : DecoderLocal fun s => s.setWork (w s.rom s.work) :=
  decoderLocal_of (fun s => OnlyWork.setWork s _) (fun _ _ hrom hw => by simp only [State.setWork_work, hrom, hw])
    (fun _ => []) fun s => (List.append_nil s.trace).symm

theorem runCrcChk_trace (computed received : Byte) (s : State) :
    (runCrcChk computed received s).trace = s.trace ++ if crcMatches computed received then [] else [.crc] := by
  unfold runCrcChk
  split
  · exact (List.append_nil _).symm
  · rfl

theorem decoderLocal_runCrcChk (computed received : Byte) : DecoderLocal (runCrcChk computed received) :=
  decoderLocal_of (runCrcChk_onlyWork computed received)
    (fun _ _ _ hw => by rw [runCrcChk_work, runCrcChk_work, hw]) (fun _ => _) (runCrcChk_trace computed received)

theorem decoderLocal_runPtFilt (dist : Half) (conf : Byte) : DecoderLocal (runPtFilt dist conf) :=
  decoderLocal_of (runPtFilt_onlyWork dist conf)
    (fun _ _ _ hw => by rw [runPtFilt_work, runPtFilt_work, hw]) (fun _ => _) (runPtFilt_trace dist conf)

theorem decoderLocal_runDecode (f : Frame) : DecoderLocal (runDecode f) :=
  decoderLocal_of (runDecode_onlyWork f) (fun _ _ hrom _ => runDecode_work_congr hrom f)
    (fun t => drops t f) fun s => (runDecode_spec f s).2

/-- The ten format-S operations complete in every state. -/
theorem exec_formatS {i : Instr} (h : isFormatS i = true) : ∃ g, DecoderLocal g ∧ ∀ s, exec i s = .next (g s) := by
  cases i with
  | crcUpd acc b => exact ⟨_, decoderLocal_setWork fun t w => { w with acc := t.update acc b }, fun _ => rfl⟩
  | crcCalc m =>
    exact ⟨_, decoderLocal_setWork fun t w => { w with acc := t.crc8 m },
      fun s => congrArg Host.Outcome.next (runCrcCalc_eq_setWork m s)⟩
  | crcChk computed received => exact ⟨_, decoderLocal_runCrcChk computed received, fun _ => rfl⟩
  | ldU8 f a d => exact ⟨_, decoderLocal_setWork fun _ w => w.setByte d (f.u8 a), fun _ => rfl⟩
  | ldU16le f a d => exact ⟨_, decoderLocal_setWork fun _ w => w.setHalf d (f.u16le a), fun _ => rfl⟩
  | angDiff sa ea => exact ⟨_, decoderLocal_setWork fun _ w => { w with diff := angleSpan sa ea }, fun _ => rfl⟩
  | angRaw sa diff k => exact ⟨_, decoderLocal_setWork fun _ w => { w with nraw := angleRaw sa diff k }, fun _ => rfl⟩
  | angNorm nraw => exact ⟨_, decoderLocal_setWork fun _ w => { w with n := angleNorm nraw }, fun _ => rfl⟩
  | ptFilt dist conf => exact ⟨_, decoderLocal_runPtFilt dist conf, fun _ => rfl⟩
  | decode f => exact ⟨_, decoderLocal_runDecode f, fun _ => rfl⟩
  | fSkip | fSync | fLenok | fDesync | fAppend | fEmit | push | nobyte | reset | frame => cases h

/-- Settles O43: each of the ten is local to the decoder. -/
theorem decoderOperationsLeaveFramerAlone : Obligations.DecoderOperationsLeaveFramerAlone := by
  unfold Obligations.DecoderOperationsLeaveFramerAlone
  intro i s s' hi hrom hwork
  obtain ⟨g, hg, hexec⟩ := exec_formatS hi
  obtain ⟨l, hsame, hs, hs'⟩ := hg s s' hrom hwork
  exact ⟨g s, g s', l, hexec s, hexec s', hsame, hs, hs'⟩

/-- An instruction is of format B, of format S, or what a host item is. -/
theorem instr_cases (i : Instr) :
    (∃ (op : FramerOp) (b : Byte), i = op.instr b) ∨ isFormatS i = true ∨ ∃ item : HostItem, i = item.instr := by
  cases i with
  | fSkip b => exact .inl ⟨.skip, b, rfl⟩
  | fSync b => exact .inl ⟨.sync, b, rfl⟩
  | fLenok b => exact .inl ⟨.lenok, b, rfl⟩
  | fDesync b => exact .inl ⟨.desync, b, rfl⟩
  | fAppend b => exact .inl ⟨.append, b, rfl⟩
  | fEmit b => exact .inl ⟨.emit, b, rfl⟩
  | crcUpd | crcCalc | crcChk | ldU8 | ldU16le | angDiff | angRaw | angNorm | ptFilt | decode => exact .inr (.inl rfl)
  | push b => exact .inr (.inr ⟨.push b, rfl⟩)
  | nobyte => exact .inr (.inr ⟨.noByte, rfl⟩)
  | reset => exact .inr (.inr ⟨.reset, rfl⟩)
  | frame args => exact .inr (.inr ⟨.frame args, rfl⟩)

/-- The state with other records of what the ports delivered. -/
def State.withRecords (s : State) (o : List Sample) (tr : List Event) : State := { s with out := o, trace := tr }

theorem sameCore_withRecords (s : State) (o : List Sample) (tr : List Event) : SameCore s (s.withRecords o tr) :=
  ⟨rfl, rfl, rfl, rfl⟩

section Records

variable {s t : State} (o : List Sample) (tr : List Event)

/-- `i` takes `s` to `t` without writing the table, and adds to the records `o` and `tr` what it adds to those of `s`. -/
def AddsToRecords (i : Instr) (s t : State) (o : List Sample) (tr : List Event) : Prop :=
  t.rom = s.rom ∧ ∃ (l : List Sample) (e : List Event), t.out = s.out ++ l ∧ t.trace = s.trace ++ e ∧
    exec i (s.withRecords o tr) = .next (t.withRecords (o ++ l) (tr ++ e))

theorem addsToRecords_framer {op : FramerOp} {b : Byte} (h : exec (op.instr b) s = .next t) :
    AddsToRecords (op.instr b) s t o tr := by
  obtain ⟨e, -, rfl, hexec⟩ := (sameCore_withRecords s o tr).exec_framer h
  exact ⟨rfl, e.samples, e.events, rfl, rfl, hexec⟩

theorem addsToRecords_formatS {i : Instr} (hi : isFormatS i = true) (h : exec i s = .next t) :
    AddsToRecords i s t o tr := by
  obtain ⟨g, hg, hexec⟩ := exec_formatS hi
  obtain rfl : g s = t := Host.Outcome.next.inj ((hexec s).symm.trans h)
  obtain ⟨l, hwork, hs, hs'⟩ := hg s (s.withRecords o tr) rfl rfl
  rw [hwork] at hs'
  refine ⟨by rw [hs], [], l, by rw [hs, List.append_nil], by rw [hs], (hexec _).trans ?_⟩
  rw [hs', hs, List.append_nil]
  rfl

theorem addsToRecords_hostItem (item : HostItem) (h : exec item.instr s = .next t) :
    AddsToRecords item.instr s t o tr := by
  cases item with
  | push b =>
    obtain ⟨-, e, -, rfl, hexec⟩ := (sameCore_withRecords s o tr).exec_push h
    exact ⟨rfl, e.samples, e.events, rfl, rfl, hexec⟩
  | noByte | reset | frame a =>
    cases h
    exact ⟨rfl, [], [], (List.append_nil _).symm, (List.append_nil _).symm,
      by rw [List.append_nil, List.append_nil]; rfl⟩

theorem exec_addsToRecords {i : Instr} (h : exec i s = .next t) : AddsToRecords i s t o tr := by
  obtain ⟨op, b, rfl⟩ | hi | ⟨item, rfl⟩ := instr_cases i
  · exact addsToRecords_framer o tr h
  · exact addsToRecords_formatS o tr hi h
  · exact addsToRecords_hostItem o tr item h

end Records

/-- Settles O49: no group of instructions writes the table. -/
theorem nothingWritesTheTable : Obligations.NothingWritesTheTable := by
  unfold Obligations.NothingWritesTheTable
  intro i s t h
  obtain ⟨hrom, -⟩ := exec_addsToRecords [] [] h
  exact hrom

/-- Settles O50: each group of instructions only adds to the records, and adds the same to others. -/
theorem nothingReadsOutputOrTrace : Obligations.NothingReadsOutputOrTrace := by
  unfold Obligations.NothingReadsOutputOrTrace
  intro i s t o tr h
  obtain ⟨-, hrecords⟩ := exec_addsToRecords o tr h
  exact hrecords

/-- Settles O51: the select and the frame decoder run on each word. -/
theorem specWordsDecodeAsWritten : Obligations.SpecWordsDecodeAsWritten := by
  unfold Obligations.SpecWordsDecodeAsWritten
  exact ⟨rfl, rfl, rfl, rfl, rfl, rfl, rfl, rfl, rfl, rfl⟩

end Sys2Proof.Machine
end
